-- ==== Sys2Proof/Word.lean ====
section
/-! DEFINITION. The word types: what the spec treats as bits (00_scope.md R9). -/

namespace Sys2Proof

/-- `u8`: a register, a timer, a byte of memory (R9). -/
abbrev Byte := BitVec 8

/-- `u16`: PC, I, a stack element, the instruction word (R9, R24, R26). -/
abbrev Word := BitVec 16

/-- `u4`: one nibble of the instruction word, a register number or a key code (R9, R74). -/
abbrev Nibble := BitVec 4

/-- `u12`: the address field `nnn` of the instruction word (R9, R74). -/
abbrev Addr12 := BitVec 12

/-- One row of the physical framebuffer: 128 pixels, the leftmost in the most significant bit, as in a
sprite row (R29, R125).  A representation of the spec's 128 booleans; every reader and writer goes
through `Grid.pixel` and `Grid.setPixel`.  DESIGN CHOICE, safe (log 15). -/
abbrev PixelRow := BitVec 128

end Sys2Proof
end

