-- ==== Sys2Proof/Syntax.lean ====
section
/-! DEFINITION. The instructions: one constructor per row of spec/opcode_table.json (30_encoding.md R88).
`x` and `y` are register numbers, `kk` an 8-bit immediate, `nnn` a 12-bit address, `n` a count (R74). -/

namespace Sys2Proof

/-- The instruction set (R88). -/
inductive Instr where
  /-- `CLS` (R94). -/
  | cls
  /-- `RET` (R95). -/
  | ret
  /-- `HIGH` (R96). -/
  | high
  /-- `LOW` (R97). -/
  | low
  /-- `SCR` (R99). -/
  | scr
  /-- `SCL` (R100). -/
  | scl
  /-- `SCD n` (R101). -/
  | scd (n : Nibble)
  /-- `SYS nnn` (R102). -/
  | sys (nnn : Addr12)
  /-- `JMP nnn` (R104). -/
  | jmp (nnn : Addr12)
  /-- `CALL nnn` (R105). -/
  | call (nnn : Addr12)
  /-- `SE Vx, kk` (R106). -/
  | sei (x : Nibble) (kk : Byte)
  /-- `SNE Vx, kk` (R107). -/
  | snei (x : Nibble) (kk : Byte)
  /-- `SE Vx, Vy` (R108). -/
  | ser (x y : Nibble)
  /-- `LD Vx, kk` (R112). -/
  | ldVK (x : Nibble) (kk : Byte)
  /-- `ADD Vx, kk` (R113). -/
  | addVK (x : Nibble) (kk : Byte)
  /-- `LD Vx, Vy` (R114). -/
  | ldVV (x y : Nibble)
  /-- `OR Vx, Vy` (R115). -/
  | orVV (x y : Nibble)
  /-- `AND Vx, Vy` (R116). -/
  | andVV (x y : Nibble)
  /-- `XOR Vx, Vy` (R117). -/
  | xorVV (x y : Nibble)
  /-- `ADD Vx, Vy` (R118). -/
  | addVV (x y : Nibble)
  /-- `SUB Vx, Vy` (R119). -/
  | sub (x y : Nibble)
  /-- `SHR Vx, Vy` (R120). -/
  | shr (x y : Nibble)
  /-- `SUBN Vx, Vy` (R121). -/
  | subn (x y : Nibble)
  /-- `SHL Vx, Vy` (R122). -/
  | shl (x y : Nibble)
  /-- `SNE Vx, Vy` (R109). -/
  | sner (x y : Nibble)
  /-- `LD I, nnn` (R135). -/
  | ldIA (nnn : Addr12)
  /-- `JMP V0, nnn` (R111).  The table's second field `x` is `nnn[11:8]`, no operand of its own. -/
  | jmpOff (nnn : Addr12)
  /-- `RND Vx, kk` (R123). -/
  | rnd (x : Nibble) (kk : Byte)
  /-- `DRW Vx, Vy, n` (R125). -/
  | drw (x y n : Nibble)
  /-- `SKP Vx` (R142). -/
  | skp (x : Nibble)
  /-- `SKNP Vx` (R143). -/
  | sknp (x : Nibble)
  /-- `LD Vx, DT` (R144). -/
  | ldVDT (x : Nibble)
  /-- `LD Vx, K` (R145). -/
  | ldVKey (x : Nibble)
  /-- `LD DT, Vx` (R146). -/
  | ldDTV (x : Nibble)
  /-- `LD ST, Vx` (R147). -/
  | ldSTV (x : Nibble)
  /-- `ADD I, Vx` (R136). -/
  | addIV (x : Nibble)
  /-- `LD F, Vx` (R137). -/
  | ldFV (x : Nibble)
  /-- `LD B, Vx` (R138). -/
  | ldBV (x : Nibble)
  /-- `LD [I], Vx` (R139). -/
  | ldMV (x : Nibble)
  /-- `LD Vx, [I]` (R140). -/
  | ldVM (x : Nibble)
  deriving DecidableEq, Repr

end Sys2Proof
end

