-- ==== Sys2Proof/WellFormed.lean ====
section
/-! DEFINITION. Which terms of `Instr` are instructions of the machine.  The field types already bound every
operand (30_encoding.md R74, R76: "All 16 values are legal"); the one check left is that a SYS is a
group-0 word that no other group-0 row claims (30_encoding.md R78, 40_group0.md R102). -/

namespace Sys2Proof

/-- The low bytes of group 0x0 that a fixed row claims: E0, EE, FF, FE, FB, FC and C0 to CF (R78). -/
def claimedLowByte (kk : Byte) : Bool :=
  kk == 0xE0#8 || kk == 0xEE#8 || kk == 0xFF#8 || kk == 0xFE#8 || kk == 0xFB#8 || kk == 0xFC#8
    || kk.extractLsb' 4 4 == 0xC#4

/-- `i` is an instruction: for SYS, no fixed row of group 0x0 claims its low byte (R78, R93). -/
def Instr.wf : Instr → Bool
  | .sys nnn => !claimedLowByte (nnn.extractLsb' 0 8)
  | .cls | .ret | .high | .low | .scr | .scl | .scd _ => true
  | .jmp _ | .call _ | .ldIA _ | .jmpOff _ => true
  | .sei _ _ | .snei _ _ | .ldVK _ _ | .addVK _ _ | .rnd _ _ => true
  | .ser _ _ | .sner _ _ | .ldVV _ _ | .orVV _ _ | .andVV _ _ | .xorVV _ _ => true
  | .addVV _ _ | .sub _ _ | .shr _ _ | .subn _ _ | .shl _ _ => true
  | .drw _ _ _ => true
  | .skp _ | .sknp _ | .ldVDT _ | .ldVKey _ | .ldDTV _ | .ldSTV _ => true
  | .addIV _ | .ldFV _ | .ldBV _ | .ldMV _ | .ldVM _ => true

end Sys2Proof
end

