-- ==== Sys2Proof/Decode.lean ====
section
/-! DEFINITION. The decoder, total on any bytes and rejecting by name, and the encoder (30_encoding.md). -/

namespace Sys2Proof

/-! ## Fields of the instruction word (R74) -/

/-- `c = op[15:12]`. -/
def fieldC (op : Word) : Nibble := op.extractLsb' 12 4

/-- `x = op[11:8]`. -/
def fieldX (op : Word) : Nibble := op.extractLsb' 8 4

/-- `y = op[7:4]`. -/
def fieldY (op : Word) : Nibble := op.extractLsb' 4 4

/-- `n = op[3:0]`. -/
def fieldN (op : Word) : Nibble := op.extractLsb' 0 4

/-- `kk = op[7:0]`. -/
def fieldKK (op : Word) : Byte := op.extractLsb' 0 8

/-- `nnn = op[11:0]`. -/
def fieldNNN (op : Word) : Addr12 := op.extractLsb' 0 12

/-! ## Decode (R77 to R81, R86) -/

/-- Why bytes are no instruction. -/
inductive DecodeReject where
  /-- The word is one of the UNMAPPED words (R86). -/
  | unmapped (op : Word)
  /-- Fewer than the two bytes of an instruction were given (R72); no fetch gives fewer. -/
  | truncated (given : Nat)
  deriving DecidableEq, Repr

/-- Group 0x0 dispatches on the low byte; `x` is not examined, and no word is unmapped (R78). -/
def decodeGroup0 (op : Word) : Instr :=
  match fieldKK op with
  | 0xE0#8 => .cls
  | 0xEE#8 => .ret
  | 0xFF#8 => .high
  | 0xFE#8 => .low
  | 0xFB#8 => .scr
  | 0xFC#8 => .scl
  | _ => if fieldY op = 0xC#4 then .scd (fieldN op) else .sys (fieldNNN op)

/-- Group 0x8 dispatches on `n` (R80). -/
def decodeGroup8 (op : Word) : Except DecodeReject Instr :=
  match fieldN op with
  | 0x0#4 => .ok (.ldVV (fieldX op) (fieldY op))
  | 0x1#4 => .ok (.orVV (fieldX op) (fieldY op))
  | 0x2#4 => .ok (.andVV (fieldX op) (fieldY op))
  | 0x3#4 => .ok (.xorVV (fieldX op) (fieldY op))
  | 0x4#4 => .ok (.addVV (fieldX op) (fieldY op))
  | 0x5#4 => .ok (.sub (fieldX op) (fieldY op))
  | 0x6#4 => .ok (.shr (fieldX op) (fieldY op))
  | 0x7#4 => .ok (.subn (fieldX op) (fieldY op))
  | 0xE#4 => .ok (.shl (fieldX op) (fieldY op))
  | _ => .error (.unmapped op)

/-- Group 0xE dispatches on `kk` (R81). -/
def decodeGroupE (op : Word) : Except DecodeReject Instr :=
  match fieldKK op with
  | 0x9E#8 => .ok (.skp (fieldX op))
  | 0xA1#8 => .ok (.sknp (fieldX op))
  | _ => .error (.unmapped op)

/-- Group 0xF dispatches on `kk` (R81). -/
def decodeGroupF (op : Word) : Except DecodeReject Instr :=
  match fieldKK op with
  | 0x07#8 => .ok (.ldVDT (fieldX op))
  | 0x0A#8 => .ok (.ldVKey (fieldX op))
  | 0x15#8 => .ok (.ldDTV (fieldX op))
  | 0x18#8 => .ok (.ldSTV (fieldX op))
  | 0x1E#8 => .ok (.addIV (fieldX op))
  | 0x29#8 => .ok (.ldFV (fieldX op))
  | 0x33#8 => .ok (.ldBV (fieldX op))
  | 0x55#8 => .ok (.ldMV (fieldX op))
  | 0x65#8 => .ok (.ldVM (fieldX op))
  | _ => .error (.unmapped op)

/-- One instruction word: dispatch on the leading nibble (R77, R79).  The last arm is 0xF. -/
def decodeWord (op : Word) : Except DecodeReject Instr :=
  match fieldC op with
  | 0x0#4 => .ok (decodeGroup0 op)
  | 0x1#4 => .ok (.jmp (fieldNNN op))
  | 0x2#4 => .ok (.call (fieldNNN op))
  | 0x3#4 => .ok (.sei (fieldX op) (fieldKK op))
  | 0x4#4 => .ok (.snei (fieldX op) (fieldKK op))
  | 0x5#4 => if fieldN op = 0x0#4 then .ok (.ser (fieldX op) (fieldY op)) else .error (.unmapped op)
  | 0x6#4 => .ok (.ldVK (fieldX op) (fieldKK op))
  | 0x7#4 => .ok (.addVK (fieldX op) (fieldKK op))
  | 0x8#4 => decodeGroup8 op
  | 0x9#4 => if fieldN op = 0x0#4 then .ok (.sner (fieldX op) (fieldY op)) else .error (.unmapped op)
  | 0xA#4 => .ok (.ldIA (fieldNNN op))
  | 0xB#4 => .ok (.jmpOff (fieldNNN op))
  | 0xC#4 => .ok (.rnd (fieldX op) (fieldKK op))
  | 0xD#4 => .ok (.drw (fieldX op) (fieldY op) (fieldN op))
  | 0xE#4 => decodeGroupE op
  | _ => decodeGroupF op

/-- The instruction word of two fetched bytes: big-endian, the first byte high (20_memory.md R54). -/
def wordOfBytes (hi lo : Byte) : Word := hi ++ lo

/-- The instruction at the head of a byte sequence, and the bytes after it: always two bytes (R72). -/
def decode : List Byte → Except DecodeReject (Instr × List Byte)
  | hi :: lo :: rest =>
    match decodeWord (wordOfBytes hi lo) with
    | .ok i => .ok (i, rest)
    | .error e => .error e
  | short => .error (.truncated short.length)

/-! ## Encode (R73, R88): the word of each row, from its format, its match value and its operands.
An instruction of format Z or ZN has a nibble `x` that is not examined (R78); the encoder writes 0 there
(log 10). -/

/-- Format XYS and XYN: four nibbles. -/
def asmXYN (c x y n : Nibble) : Word := c ++ x ++ y ++ n

/-- Format XKK, XS and Z: two nibbles and a byte. -/
def asmXKK (c x : Nibble) (kk : Byte) : Word := c ++ x ++ kk

/-- Format NNN: a nibble and an address. -/
def asmNNN (c : Nibble) (nnn : Addr12) : Word := c ++ nnn

/-- The instruction word of an instruction (R88). -/
def encodeWord : Instr → Word
  | .cls => asmXKK 0x0 0x0 0xE0
  | .ret => asmXKK 0x0 0x0 0xEE
  | .high => asmXKK 0x0 0x0 0xFF
  | .low => asmXKK 0x0 0x0 0xFE
  | .scr => asmXKK 0x0 0x0 0xFB
  | .scl => asmXKK 0x0 0x0 0xFC
  | .scd n => asmXYN 0x0 0x0 0xC n
  | .sys nnn => asmNNN 0x0 nnn
  | .jmp nnn => asmNNN 0x1 nnn
  | .call nnn => asmNNN 0x2 nnn
  | .sei x kk => asmXKK 0x3 x kk
  | .snei x kk => asmXKK 0x4 x kk
  | .ser x y => asmXYN 0x5 x y 0x0
  | .ldVK x kk => asmXKK 0x6 x kk
  | .addVK x kk => asmXKK 0x7 x kk
  | .ldVV x y => asmXYN 0x8 x y 0x0
  | .orVV x y => asmXYN 0x8 x y 0x1
  | .andVV x y => asmXYN 0x8 x y 0x2
  | .xorVV x y => asmXYN 0x8 x y 0x3
  | .addVV x y => asmXYN 0x8 x y 0x4
  | .sub x y => asmXYN 0x8 x y 0x5
  | .shr x y => asmXYN 0x8 x y 0x6
  | .subn x y => asmXYN 0x8 x y 0x7
  | .shl x y => asmXYN 0x8 x y 0xE
  | .sner x y => asmXYN 0x9 x y 0x0
  | .ldIA nnn => asmNNN 0xA nnn
  | .jmpOff nnn => asmNNN 0xB nnn
  | .rnd x kk => asmXKK 0xC x kk
  | .drw x y n => asmXYN 0xD x y n
  | .skp x => asmXKK 0xE x 0x9E
  | .sknp x => asmXKK 0xE x 0xA1
  | .ldVDT x => asmXKK 0xF x 0x07
  | .ldVKey x => asmXKK 0xF x 0x0A
  | .ldDTV x => asmXKK 0xF x 0x15
  | .ldSTV x => asmXKK 0xF x 0x18
  | .addIV x => asmXKK 0xF x 0x1E
  | .ldFV x => asmXKK 0xF x 0x29
  | .ldBV x => asmXKK 0xF x 0x33
  | .ldMV x => asmXKK 0xF x 0x55
  | .ldVM x => asmXKK 0xF x 0x65

/-- The two bytes of a word as memory holds them, the high byte at the lower address (R54). -/
def bytesOfWord (op : Word) : List Byte := [op.extractLsb' 8 8, op.extractLsb' 0 8]

/-- The bytes of an instruction as memory holds them. -/
def encode (i : Instr) : List Byte := bytesOfWord (encodeWord i)

/-- The instruction the decoder reads from a word of the opcode table: the word's bytes are laid out as
memory holds them and decoded.  Every row has 16 bits; bits above `nbits` are 0. -/
def decodeTableWord (nbits w : Nat) : Option Instr :=
  match decode (bytesOfWord (BitVec.ofNat 16 (w % 2 ^ nbits))) with
  | .ok (i, _) => some i
  | .error _ => none

/-! ## The opcode map (R88), row by row: a word `w` is the instruction when `(w & mask) == match`, SYS only where no other
row of group 0x0 matches (R93). -/

/-- A row of the opcode map. -/
structure OpcodeRow where
  mnemonic : String
  pattern : Word
  mask : Word
  deriving DecidableEq, Repr

/-- The row of an instruction: its mnemonic, `match` and `mask` (R88). -/
def Instr.row : Instr → OpcodeRow
  | .cls => { mnemonic := "CLS", pattern := 0x00E0#16, mask := 0xF0FF#16 }
  | .ret => { mnemonic := "RET", pattern := 0x00EE#16, mask := 0xF0FF#16 }
  | .high => { mnemonic := "HIGH", pattern := 0x00FF#16, mask := 0xF0FF#16 }
  | .low => { mnemonic := "LOW", pattern := 0x00FE#16, mask := 0xF0FF#16 }
  | .scr => { mnemonic := "SCR", pattern := 0x00FB#16, mask := 0xF0FF#16 }
  | .scl => { mnemonic := "SCL", pattern := 0x00FC#16, mask := 0xF0FF#16 }
  | .scd _ => { mnemonic := "SCD", pattern := 0x00C0#16, mask := 0xF0F0#16 }
  | .sys _ => { mnemonic := "SYS", pattern := 0x0000#16, mask := 0xF000#16 }
  | .jmp _ => { mnemonic := "JMP", pattern := 0x1000#16, mask := 0xF000#16 }
  | .call _ => { mnemonic := "CALL", pattern := 0x2000#16, mask := 0xF000#16 }
  | .sei _ _ => { mnemonic := "SEI", pattern := 0x3000#16, mask := 0xF000#16 }
  | .snei _ _ => { mnemonic := "SNEI", pattern := 0x4000#16, mask := 0xF000#16 }
  | .ser _ _ => { mnemonic := "SER", pattern := 0x5000#16, mask := 0xF00F#16 }
  | .ldVK _ _ => { mnemonic := "LD_VK", pattern := 0x6000#16, mask := 0xF000#16 }
  | .addVK _ _ => { mnemonic := "ADD_VK", pattern := 0x7000#16, mask := 0xF000#16 }
  | .ldVV _ _ => { mnemonic := "LD_VV", pattern := 0x8000#16, mask := 0xF00F#16 }
  | .orVV _ _ => { mnemonic := "OR", pattern := 0x8001#16, mask := 0xF00F#16 }
  | .andVV _ _ => { mnemonic := "AND", pattern := 0x8002#16, mask := 0xF00F#16 }
  | .xorVV _ _ => { mnemonic := "XOR", pattern := 0x8003#16, mask := 0xF00F#16 }
  | .addVV _ _ => { mnemonic := "ADD_VV", pattern := 0x8004#16, mask := 0xF00F#16 }
  | .sub _ _ => { mnemonic := "SUB", pattern := 0x8005#16, mask := 0xF00F#16 }
  | .shr _ _ => { mnemonic := "SHR", pattern := 0x8006#16, mask := 0xF00F#16 }
  | .subn _ _ => { mnemonic := "SUBN", pattern := 0x8007#16, mask := 0xF00F#16 }
  | .shl _ _ => { mnemonic := "SHL", pattern := 0x800E#16, mask := 0xF00F#16 }
  | .sner _ _ => { mnemonic := "SNER", pattern := 0x9000#16, mask := 0xF00F#16 }
  | .ldIA _ => { mnemonic := "LD_IA", pattern := 0xA000#16, mask := 0xF000#16 }
  | .jmpOff _ => { mnemonic := "JMP_OFF", pattern := 0xB000#16, mask := 0xF000#16 }
  | .rnd _ _ => { mnemonic := "RND", pattern := 0xC000#16, mask := 0xF000#16 }
  | .drw _ _ _ => { mnemonic := "DRW", pattern := 0xD000#16, mask := 0xF000#16 }
  | .skp _ => { mnemonic := "SKP", pattern := 0xE09E#16, mask := 0xF0FF#16 }
  | .sknp _ => { mnemonic := "SKNP", pattern := 0xE0A1#16, mask := 0xF0FF#16 }
  | .ldVDT _ => { mnemonic := "LD_VDT", pattern := 0xF007#16, mask := 0xF0FF#16 }
  | .ldVKey _ => { mnemonic := "LD_VKEY", pattern := 0xF00A#16, mask := 0xF0FF#16 }
  | .ldDTV _ => { mnemonic := "LD_DTV", pattern := 0xF015#16, mask := 0xF0FF#16 }
  | .ldSTV _ => { mnemonic := "LD_STV", pattern := 0xF018#16, mask := 0xF0FF#16 }
  | .addIV _ => { mnemonic := "ADD_IV", pattern := 0xF01E#16, mask := 0xF0FF#16 }
  | .ldFV _ => { mnemonic := "LD_FV", pattern := 0xF029#16, mask := 0xF0FF#16 }
  | .ldBV _ => { mnemonic := "LD_BV", pattern := 0xF033#16, mask := 0xF0FF#16 }
  | .ldMV _ => { mnemonic := "LD_MV", pattern := 0xF055#16, mask := 0xF0FF#16 }
  | .ldVM _ => { mnemonic := "LD_VM", pattern := 0xF065#16, mask := 0xF0FF#16 }

/-- The word matches the instruction's row (R88). -/
def Instr.rowMatches (i : Instr) (op : Word) : Prop := op &&& i.row.mask = i.row.pattern

end Sys2Proof
end

