-- ==== Sys2Proof/Config.lean ====
section
/-! DEFINITION. The parameters of the machine (00_scope.md R3, R8; 10_state.md R37), as types, and the
free values.  The values the spec gives them stand in Machine/Parameters.lean. -/

namespace Sys2Proof

/-- The quirk record `Q` (10_state.md R37). -/
structure Quirks where
  /-- OR, AND and XOR clear VF. -/
  vfReset : Bool
  /-- Fx55 and Fx65 advance I. -/
  memory : Bool
  /-- CPU ticks are skipped while INT is set. -/
  displayWait : Bool
  /-- Sprite pixels past an edge are discarded; when clear they wrap. -/
  clipping : Bool
  /-- SHR and SHL shift V[x] in place; when clear they shift V[y] into V[x]. -/
  shifting : Bool
  /-- Bnnn adds V[nnn[11:8]]; when clear it adds V[0]. -/
  jumping : Bool
  deriving DecidableEq, Repr

/-- The four named profiles (00_scope.md R2). -/
inductive Profile where
  | chip8
  | superchipLegacy
  | superchipModern
  | xochip
  deriving DecidableEq, Repr

/-- `UNMAPPED_POLICY` (60_exceptions.md R152). -/
inductive UnmappedPolicy where
  | fault
  | nopAdvance
  | nopStall
  deriving DecidableEq, Repr

/-- `LOWRES_SCROLL` (40_group0.md R98). -/
inductive LowresScroll where
  | physical
  | logical
  | noop
  deriving DecidableEq, Repr

/-- `HIRES_VF` (43_draw.md R131). -/
inductive HiresVfRule where
  | collideOrBottomClip
  | collideOnly
  | rowCount
  deriving DecidableEq, Repr

/-- A real number the host supplies: a rational, or one of the free reals of `Config.positiveReal` or its negative, so any
real, the irrational ones included (log 6).  Its value is `HostReal.value`. -/
inductive HostReal where
  /-- The rational `q` itself. -/
  | rational (q : Rat)
  /-- The real `Config.positiveReal k`, above 0. -/
  | positive (k : Nat)
  /-- The real `-Config.positiveReal k`, below 0. -/
  | negative (k : Nat)
  deriving DecidableEq, Repr

/-- What is fixed when the machine is built (00_scope.md R3, R8).  State holds it as a constant field, so
that every statement about all states is a statement about all parameters (log 1). -/
structure Params where
  /-- `Q` (R37). -/
  q : Quirks
  /-- `UNMAPPED_POLICY` (R152). -/
  unmappedPolicy : UnmappedPolicy
  /-- `LOWRES_SCROLL` (R98). -/
  lowresScroll : LowresScroll
  /-- `HIRES_VF` (R131). -/
  hiresVf : HiresVfRule
  /-- `FX1E_LIMIT` (R136). -/
  fx1eLimit : Nat
  /-- `PAUSE_GATES_TIMERS` (R159). -/
  pauseGatesTimers : Bool
  /-- The depth bound of a bounded model (R27); `none` is the spec's unbounded stack (log 8). -/
  stackLimit : Option Nat
  /-- `CPU_HZ` (R165); no transition reads it (log 14). -/
  cpuHz : HostReal
  deriving DecidableEq, Repr

/-- The byte the `rand` input gives to draw number `k` when no byte waits on it: a free value, about which
nothing can be proved (00_scope.md R14, 60_exceptions.md R175: "assumes nothing of it").  Log 4. -/
opaque Config.freeRandomByte : Nat → Byte

/-- The real number above 0 that `HostReal` names by the number `k`: a free value, about which nothing but its sign can be
proved (10_state.md R45, R47: SPEED is "real > 0").  Log 6. -/
noncomputable opaque Config.positiveReal : Nat → { r : ℝ // 0 < r }

end Sys2Proof
end

