-- ==== Sys2Proof/Machine/Parameters.lean ====
section
/-! DEFINITION. The values of the implementation parameters (00_scope.md R8), the default quirk table
(10_state.md R38), the font (20_memory.md R60), and the real a `HostReal` names (10_state.md R45). -/

namespace Sys2Proof

/-- The real number itself (R45, R165; log 6). -/
noncomputable def HostReal.value : HostReal → ℝ
  | .rational q => q
  | .positive k => (Config.positiveReal k).val
  | .negative k => -(Config.positiveReal k).val

/-- Whether the real is above 0 (R169), as the machine computes it. -/
def HostReal.isPositive : HostReal → Bool
  | .rational q => decide (0 < q)
  | .positive _ => true
  | .negative _ => false

end Sys2Proof

namespace Sys2Proof.Machine

/-- `MEM_SIZE` (R8, R50): addresses 0x000 to 0xFFF exist, and no other (R57). -/
def memSize : Nat := 0x1000

/-- `PROG_BASE`: the reset PC and the address a ROM is loaded at (R8, R24, R71). -/
def progBase : Nat := 0x200

/-- `ROM_MAX` (R8, R71). -/
def romMax : Nat := 3584

/-- `FONT_BASE` (R8, R60).  The spec's choice between K8's two values (C1, D4); log 16. -/
def fontBase : Nat := 0x050

/-- `SCROLL_H`: the columns SCR and SCL move (R8, R98).  PRESUMED by the spec (G9); log 18. -/
def scrollH : Nat := 4

/-- `TIMER_HZ` (R8, R165). -/
def timerHz : Nat := 60

/-- The built-in font: 16 glyphs of 5 bytes, one byte a row, the top row first (R60).  The spec takes the bytes
from general knowledge (G7, D5): PRESUMED, log 16. -/
def fontTable : List Byte :=
  [0xF0, 0x90, 0x90, 0x90, 0xF0] ++ [0x20, 0x60, 0x20, 0x20, 0x70] ++
  [0xF0, 0x10, 0xF0, 0x80, 0xF0] ++ [0xF0, 0x10, 0xF0, 0x10, 0xF0] ++
  [0x90, 0x90, 0xF0, 0x10, 0x10] ++ [0xF0, 0x80, 0xF0, 0x10, 0xF0] ++
  [0xF0, 0x80, 0xF0, 0x90, 0xF0] ++ [0xF0, 0x10, 0x20, 0x40, 0x40] ++
  [0xF0, 0x90, 0xF0, 0x90, 0xF0] ++ [0xF0, 0x90, 0xF0, 0x10, 0xF0] ++
  [0xF0, 0x90, 0xF0, 0x90, 0x90] ++ [0xE0, 0x90, 0xE0, 0x90, 0xE0] ++
  [0xF0, 0x80, 0x80, 0x80, 0xF0] ++ [0xE0, 0x90, 0x90, 0x90, 0xE0] ++
  [0xF0, 0x80, 0xF0, 0x80, 0xF0] ++ [0xF0, 0x80, 0xF0, 0x80, 0x80]

/-- The font's size: 16 glyphs of 5 bytes (R8, R60). -/
def fontBytes : Nat := 80

/-- The default quirk record of each profile (R38).  The spec takes the table from general knowledge (G4, D6):
PRESUMED, log 2. -/
def profileQuirks : Profile → Quirks
  | .chip8 =>
    { vfReset := true, memory := true, displayWait := true, clipping := true, shifting := false, jumping := false }
  | .superchipLegacy =>
    { vfReset := false, memory := false, displayWait := true, clipping := true, shifting := true, jumping := true }
  | .superchipModern =>
    { vfReset := false, memory := false, displayWait := false, clipping := true, shifting := true, jumping := true }
  | .xochip =>
    { vfReset := false, memory := true, displayWait := false, clipping := false, shifting := false, jumping := false }

/-- The spec's default parameters under a profile (R8).  `cpuHz` is OPEN in the spec; 1000 is R195's example value
(DESIGN CHOICE, log 14). -/
def defaultParams (p : Profile) : Params :=
  { q := profileQuirks p
    unmappedPolicy := .fault
    lowresScroll := .physical
    hiresVf := .collideOrBottomClip
    fx1eLimit := 0x0FFF
    pauseGatesTimers := false
    stackLimit := none
    cpuHz := .rational 1000 }

end Sys2Proof.Machine
end

