-- ==== Sys2Proof/Machine/State.lean ====
section
/-! DEFINITION. The machine's state as plain data: everything 10_state.md gives the machine, its inputs that wait
(`inputs`, `rand`) and its output strobe (`draws`); and the state right after power-on (R48, R178). -/

namespace Sys2Proof.Machine

/-- `RES` (R28): LOW is 64 by 32 logical pixels, HIGH is 128 by 64. -/
inductive Resolution where
  | low
  | high
  deriving DecidableEq, Repr

/-- `RUN` (R44). -/
inductive Lifecycle where
  | idle
  | running
  | paused
  deriving DecidableEq, Repr

/-- The fault causes (60_exceptions.md R150); their codes are `Cause.code`. -/
inductive Cause where
  /-- 1: a byte of the instruction word is at 0x1000 or above.  Raised by the fetch. -/
  | fetchBounds
  /-- 2: a byte the instruction would access is at 0x1000 or above.  Raised by DRW, LD_BV, LD_MV, LD_VM. -/
  | dataBounds
  /-- 3: an UNMAPPED word under `UNMAPPED_POLICY = FAULT`.  Raised by decode. -/
  | unmapped
  /-- 4: a push beyond the depth bound, only where the parameters bound the stack (R27).  Raised by CALL. -/
  | stackLimit
  deriving DecidableEq, Repr

/-- What `FAULT` holds when it is not NONE (R150): the cause, the address `A` of the faulting instruction, and
`info` (an address, the instruction word, or the depth bound). -/
structure FaultRecord where
  cause : Cause
  pc : Word
  info : Nat
  deriving DecidableEq, Repr

/-- The input events (00_scope.md R7): the two clock inputs, the keypad, the control interface. -/
inductive Event where
  /-- The CPU clock input fires (R82, R158). -/
  | cpuTick
  /-- The timer clock input fires (R159, R160). -/
  | timerTick
  /-- `key_down(k)`, with the integer the host passes (R41). -/
  | keyDown (k : Int)
  /-- `key_up(k)` (R42). -/
  | keyUp (k : Int)
  /-- `start` (R168). -/
  | start
  /-- `pause` (R168). -/
  | pause
  /-- `resume` (R168). -/
  | resume
  /-- `reset` (R179). -/
  | reset
  /-- `load_rom(bytes)` (R183, R184). -/
  | loadRom (bytes : List Byte)
  /-- `set_speed(f)` for any real `f` (R169); log 6. -/
  | setSpeed (f : HostReal)
  /-- `set_sound(b)` (R170). -/
  | setSound (b : Bool)
  deriving DecidableEq, Repr

/-- The physical framebuffer `Phys` (R29): 64 rows of 128 pixels.  Read and written through `Grid.pixel` and
`Grid.setPixel` only. -/
abbrev Grid := Vector PixelRow 64

/-- Every cell false. -/
def Grid.blank : Grid := Vector.replicate 64 0#128

/-- Memory as data: the bytes that differ from what an unlisted address reads as, by rising address
(`Memory.wf`). -/
abbrev Memory := List Host.Cell

/-- The state of the machine (10_state.md; R47, R48). -/
@[ext]
structure State where
  /-- V[0] to V[15] (R20). -/
  v : Vector Byte 16
  /-- The index register I (R23). -/
  i : Word
  /-- PC (R24).  During a meaning it holds A + 2. -/
  pc : Word
  /-- The delay timer DT (R25). -/
  dt : Byte
  /-- The sound timer ST (R25). -/
  st : Byte
  /-- The return stack, its top first (R26). -/
  stack : List Word
  /-- RES (R28). -/
  res : Resolution
  /-- The physical framebuffer (R29). -/
  phys : Grid
  /-- INT, the display-wait stall flag (R39). -/
  int : Bool
  /-- KW, key wait armed (R43). -/
  kw : Bool
  /-- KDL, the key-down latch (R43). -/
  kdl : Bool
  /-- KEY, the last pressed key, or NONE (R40). -/
  key : Option Nibble
  /-- PRESSED (R40). -/
  pressed : Bool
  /-- RUN (R44). -/
  run : Lifecycle
  /-- SPEED, a real above 0 (R45); log 6. -/
  speed : HostReal
  /-- SOUND_EN, the sound-enable input (R45). -/
  soundEn : Bool
  /-- SOUND_ON, the sound output (R45, R161). -/
  soundOn : Bool
  /-- FAULT (R46, R150). -/
  fault : Option FaultRecord
  /-- `load_ok`, the result of the most recent `load_rom` (R173). -/
  loadOk : Bool
  /-- Main memory (R50). -/
  mem : Memory
  /-- The parameters, fixed at construction (R3, R8, R37); no step changes them (log 1). -/
  par : Params
  /-- The model's own: bytes waiting on the `rand` input, oldest first (R7, R14; log 4). -/
  rand : List Byte
  /-- The model's own: how many bytes RND has drawn (log 4). -/
  randUsed : Nat
  /-- The model's own: how many times the `draw` output was strobed (R85; log 5). -/
  draws : Nat
  /-- The model's own: the input events that wait, the next first; when none waits, the next event is a
  CPU tick (R64, R157; log 3). -/
  inputs : List Event
  deriving DecidableEq, Repr

/-- The faults that stop the model.  It has NO constructor: every fault the spec names (R150) is latched in
`State.fault` and the machine goes on, as R151 says, so no step ends in one (log 7). -/
inductive Fault
  deriving DecidableEq, Repr

/-- The refusals. -/
inductive Refusal where
  /-- An instruction that has no meaning yet.  No arm of `exec` raises it.  Safe. -/
  | notModelled (mnemonic : String)
  deriving DecidableEq, Repr

/-- The machine as built with the parameters `par` (R178, and R48's column "construction"): memory with nothing
listed reads as R63 says, zero and the font. -/
def State.construct (par : Params) : State :=
  { v := Vector.replicate 16 0#8
    i := 0#16
    pc := BitVec.ofNat 16 progBase
    dt := 0#8
    st := 0#8
    stack := []
    res := .low
    phys := Grid.blank
    int := false
    kw := false
    kdl := false
    key := none
    pressed := false
    run := .idle
    speed := .rational 1
    soundEn := true
    soundOn := false
    fault := none
    loadOk := false
    mem := []
    par := par
    rand := []
    randUsed := 0
    draws := 0
    inputs := [] }

/-- The machine right after power-on under the CHIP8 profile and the spec's default parameters (R48, R178).  The
profile is a parameter of the machine (R3); this one is a DESIGN CHOICE (log 1). -/
def State.reset : State := State.construct (defaultParams .chip8)

end Sys2Proof.Machine
end

