-- ==== Sys2Proof/Machine/Framebuffer.lean ====
section
/-! DEFINITION. The framebuffer (10_state.md R29 to R36): single cells, the resolution-aware accessors, the clear and
the scrolls. -/

namespace Sys2Proof.Machine

/-- The mask of column `c` in a row; column 0 is the leftmost pixel (R32). -/
def columnMask (c : Nat) : PixelRow := BitVec.twoPow 128 (127 - c)

/-- A row with column `c` set to `b`. -/
def setColumn (row : PixelRow) (c : Nat) (b : Bool) : PixelRow :=
  if c < 128 then (if b then row ||| columnMask c else row &&& ~~~columnMask c) else row

/-- `Phys[r][c]` (R13, R29). -/
def Grid.pixel (g : Grid) (r c : Nat) : Bool :=
  if h : r < 64 then g[r].getMsbD c else false

/-- `Phys[r][c] <- b` (R13, R29). -/
def Grid.setPixel (g : Grid) (r c : Nat) (b : Bool) : Grid :=
  if h : r < 64 then g.set r (setColumn g[r] c b) else g

/-- The width `W` of the logical grid (R30). -/
def Resolution.width : Resolution → Nat
  | .low => 64
  | .high => 128

/-- The height `H` of the logical grid (R30). -/
def Resolution.height : Resolution → Nat
  | .low => 32
  | .high => 64

/-- `FbGet(x, y, res)` (R33): in LOW the AND of the 2 by 2 block of R31. -/
def fbGet (g : Grid) (x y : Nat) : Resolution → Bool
  | .high => Grid.pixel g y x
  | .low =>
    Grid.pixel g (2 * y) (2 * x) && Grid.pixel g (2 * y) (2 * x + 1)
      && Grid.pixel g (2 * y + 1) (2 * x) && Grid.pixel g (2 * y + 1) (2 * x + 1)

/-- `FbSet(x, y, b, res)` (R34): in LOW all four cells of the block. -/
def fbSet (g : Grid) (x y : Nat) (b : Bool) : Resolution → Grid
  | .high => Grid.setPixel g y x b
  | .low =>
    Grid.setPixel (Grid.setPixel (Grid.setPixel (Grid.setPixel g
      (2 * y) (2 * x) b) (2 * y) (2 * x + 1) b) (2 * y + 1) (2 * x) b) (2 * y + 1) (2 * x + 1) b

/-- Every column moved right by `s`, the vacated ones false (R99).  The leftmost pixel is the most significant bit. -/
def scrollRight (g : Grid) (s : Nat) : Grid := Vector.ofFn fun r => g[r] >>> s

/-- Every column moved left by `s`, the vacated ones false (R100). -/
def scrollLeft (g : Grid) (s : Nat) : Grid := Vector.ofFn fun r => g[r] <<< s

/-- Every row moved down by `s`, the vacated ones false (R101). -/
def scrollDown (g : Grid) (s : Nat) : Grid :=
  Vector.ofFn fun r => if s ≤ r.val then g[r.val - s] else 0#128

end Sys2Proof.Machine
end

