-- ==== Sys2Proof/Machine/Memory.lean ====
section
/-! DEFINITION. Main memory (20_memory.md): what an unlisted address reads as, reading and writing one byte in canonical
form, a run of bytes, the clear, and the range check every access goes through. -/

namespace Sys2Proof.Machine

/-- What memory holds at construction, and so what an address not listed reads as: the font at 0x050 to 0x09F
and 0 elsewhere (R59, R60, R63). -/
def Memory.unlisted (a : Nat) : Byte :=
  if fontBase ≤ a ∧ a < fontBase + fontBytes then fontTable.getD (a - fontBase) 0#8 else 0#8

/-- The byte at `a`: `MemRead(a, 1)` (R12, R53).  Addresses from 0x1000 on do not exist (R57): no operation of the machine
reads one, since `firstOutOfRange` stops each access before it (log 11). -/
def Memory.read : Memory → Nat → Byte
  | [], a => Memory.unlisted a
  | (b, w) :: rest, a => if b = a then w else Memory.read rest a

/-- List `v` at `a` in an ascending list that does not list `a`. -/
def Memory.insert : Memory → Nat → Byte → Memory
  | [], a, v => [(a, v)]
  | (b, w) :: rest, a, v => if a < b then (a, v) :: (b, w) :: rest else (b, w) :: Memory.insert rest a v

/-- `MemWrite(a, 1, v)` (R12, R53), keeping the canonical form: a byte equal to the unlisted one is not listed.  An address
that does not exist is not written (R57); no operation tries. -/
def Memory.write (m : Memory) (a : Nat) (v : Byte) : Memory :=
  if a < memSize then
    let others := m.filter (fun cell => cell.1 != a)
    if v = Memory.unlisted a then others else Memory.insert others a v
  else m

/-- The bytes `bs` written at `a`, `a + 1`, ... in ascending address order (R53). -/
def Memory.writeBytes : Memory → Nat → List Byte → Memory
  | m, _, [] => m
  | m, a, b :: bs => Memory.writeBytes (m.write a b) (a + 1) bs

/-- `clear()`: 0 at every address from 0x200 on, and every address below kept (R62).  Those addresses read 0 when they
are not listed. -/
def Memory.clear (m : Memory) : Memory := m.filter (fun cell => decide (cell.1 < progBase))

/-- The canonical form: addresses rise strictly, exist, and no entry equals what an unlisted address reads as. -/
abbrev Memory.wf (m : Memory) : Prop :=
  m.Pairwise (fun p q => p.1 < q.1) ∧ ∀ cell ∈ m, cell.1 < memSize ∧ cell.2 ≠ Memory.unlisted cell.1

/-- The lowest address at or above 0x1000 among `base`, ..., `base + len - 1`, if there is one: the address
`MemoryBounds` is raised with (R57, R58, R150).  Addresses are exact sums, not reduced (R58). -/
def firstOutOfRange (base len : Nat) : Option Nat :=
  (List.range' base len).find? (fun a => decide (memSize ≤ a))

end Sys2Proof.Machine
end

