-- ==== Sys2Proof/Machine/Ops.lean ====
section
/-! DEFINITION. The named operations over the state that the meanings share: registers, program counter, stack, the random
input, taking a fault, the checked access, the fetch. -/

namespace Sys2Proof.Machine

/-- What a meaning and a step answer. -/
abbrev Result := Host.Outcome State Fault Refusal

/-! ## Registers (R11, R20) -/

/-- `V[x]`. -/
def State.reg (s : State) (x : Nibble) : Byte := s.v[x.toNat]'x.isLt

/-- `V[x] <- b`. -/
def State.setV (s : State) (x : Nibble) (b : Byte) : State := { s with v := s.v.set x.toNat b x.isLt }

/-- `V[15] <- b`: the flag output (R22). -/
def State.setVF (s : State) (b : Byte) : State := s.setV 0xF b

/-- `I <- a`. -/
def State.setI (s : State) (a : Word) : State := { s with i := a }

/-- `pc <- a`. -/
def State.setPc (s : State) (a : Word) : State := { s with pc := a }

/-- `DT <- b`. -/
def State.setDt (s : State) (b : Byte) : State := { s with dt := b }

/-- `ST <- b`. -/
def State.setSt (s : State) (b : Byte) : State := { s with st := b }

/-- The stack replaced (R26). -/
def State.setStack (s : State) (k : List Word) : State := { s with stack := k }

/-- `RES <- r`. -/
def State.setRes (s : State) (r : Resolution) : State := { s with res := r }

/-- The framebuffer replaced. -/
def State.setPhys (s : State) (g : Grid) : State := { s with phys := g }

/-- `INT <- b`. -/
def State.setInt (s : State) (b : Bool) : State := { s with int := b }

/-- `KW <- b` and `KDL <- l`. -/
def State.setKeyWait (s : State) (b l : Bool) : State := { s with kw := b, kdl := l }

/-- Memory replaced. -/
def State.setMem (s : State) (m : Memory) : State := { s with mem := m }

/-! ## Program counter -/

/-- `A`, the address of the instruction being executed: the fetch has set PC to `A + 2` (R11, R15, R84).  Log 12. -/
def State.opAddr (s : State) : Word := s.pc - 2#16

/-- Skip: `pc <- PC + 2` (R15, R110). -/
def State.skip (s : State) : State := s.setPc (s.pc + 2#16)

/-- Skip when `b` holds. -/
def State.skipIf (s : State) (b : Bool) : State := if b then s.skip else s

/-- Stall: `pc <- PC - 2`, that is `A`, so that the next tick fetches the same word (R102, R145). -/
def State.stall (s : State) : State := s.setPc s.opAddr

/-! ## The random input (R14, R175) -/

/-- `RandomByte()`: the oldest byte waiting on `rand`, or, when none waits, a free value (log 4). -/
def State.randomByte (s : State) : Byte :=
  match s.rand with
  | b :: _ => b
  | [] => Config.freeRandomByte s.randUsed

/-- The draw is used up. -/
def State.drawRandom (s : State) : State := { s with rand := s.rand.tail, randUsed := s.randUsed + 1 }

/-! ## Taking a fault (R150, R151) -/

/-- The code of a fault cause (R150). -/
def Cause.code : Cause → Nat
  | .fetchBounds => 1
  | .dataBounds => 2
  | .unmapped => 3
  | .stackLimit => 4

/-- `FAULT <- (cause, a, info)` with PC left at `a`, the address of the faulting instruction; nothing else changes (R151).
The core has no handler, saves nothing and changes no mode (R162), and the one way back is `reset` or `load_rom` (R163). -/
def State.latchFault (s : State) (cause : Cause) (a : Word) (info : Nat) : State :=
  { s with pc := a, fault := some { cause := cause, pc := a, info := info } }

/-- `raise`, in an instruction or at decode: the fetch's advance of PC is undone (R151). -/
def State.raise (s : State) (cause : Cause) (info : Nat) : State := s.latchFault cause s.opAddr info

/-- The state `done` of an instruction that accesses `len` bytes from `base`, or the fault `DATA_BOUNDS` with the lowest
address out of range and no effect at all, when the range leaves memory (R57, R58, R141, R151). -/
def State.accessing (s : State) (base len : Nat) (done : State) : State :=
  match firstOutOfRange base len with
  | some a => s.raise .dataBounds a
  | none => done

/-! ## Stack (R26, R27) -/

/-- `push(a)` and go on as `done` does, or, in a machine whose depth is bounded, the fault `STACK_LIMIT` on a push beyond the
bound (R27, R150; log 8). -/
def State.pushing (s : State) (done : State) : State :=
  match s.par.stackLimit with
  | some bound => if bound ≤ s.stack.length then s.raise .stackLimit bound else done
  | none => done

/-! ## Fetch (R82, R84) -/

/-- The word at PC, or the lowest address out of range of its two bytes. -/
def fetch (s : State) : Except Nat Word :=
  match firstOutOfRange s.pc.toNat 2 with
  | some a => .error a
  | none => .ok (wordOfBytes (s.mem.read s.pc.toNat) (s.mem.read (s.pc.toNat + 1)))

/-- What a tick does with an UNMAPPED word once PC is `A + 2` (R152). -/
def unmappedWord (op : Word) (s : State) : State :=
  match s.par.unmappedPolicy with
  | .fault => s.raise .unmapped op.toNat
  | .nopAdvance => s
  | .nopStall => s.stall

/-- `draw <- strobe` (R85; log 5). -/
def State.strobe (s : State) : State := { s with draws := s.draws + 1 }

/-- The end of a tick that executed: the `draw` strobe, which a faulted tick does not give (R85, R151). -/
def finishTick : Result → Result
  | .next t => .next (if t.fault.isNone then t.strobe else t)
  | .fault r => .fault r
  | .refused r => .refused r

end Sys2Proof.Machine
end

