-- ==== Sys2Proof/Machine/Control.lean ====
section
/-! DEFINITION. The events that are not CPU ticks: the timer tick (60_exceptions.md R159, R160), the keypad (10_state.md
R41, R42), the control interface (60_exceptions.md R168 to R170) with reset and ROM load (70_reset_and_hazards.md). -/

namespace Sys2Proof.Machine

/-! ## Timer tick -/

/-- A timer one lower, or 0 (R160). -/
def countDown (b : Byte) : Byte := if b = 0#8 then 0#8 else b - 1#8

/-- `timer_tick()` (R160): decrement, derive SOUND_ON from the decremented ST, release INT. -/
def State.timerTick (s : State) : State :=
  { s with
    dt := countDown s.dt
    st := countDown s.st
    soundOn := countDown s.st != 0#8 && s.soundEn
    int := false }

/-- Whether a timer tick has effect: in RUNNING, and in PAUSED unless PAUSE_GATES_TIMERS (R159). -/
def State.timersRun (s : State) : Bool :=
  match s.run with
  | .running => true
  | .paused => !s.par.pauseGatesTimers
  | .idle => false

/-- A `timer_tick` event (R159).  It runs whether or not a fault is latched. -/
def State.onTimerTick (s : State) : State := if s.timersRun then s.timerTick else s

/-! ## Keypad -/

/-- Whether the host's integer is a key code (R41, R148). -/
def isKeyCode (k : Int) : Bool := decide (0 ≤ k ∧ k ≤ 15)

/-- `key_down(k)` (R41): in every lifecycle state; any other value changes nothing. -/
def State.onKeyDown (s : State) (k : Int) : State :=
  if isKeyCode k then { s with key := some (BitVec.ofInt 4 k), pressed := true, kdl := true } else s

/-- `key_up(k)` (R42): the flag is cleared whatever KEY holds, and KEY stays. -/
def State.onKeyUp (s : State) (k : Int) : State :=
  if isKeyCode k then { s with pressed := false } else s

/-! ## Lifecycle (R168): a command given in any other state changes nothing -/

/-- `start`. -/
def State.onStart (s : State) : State := if s.run = .idle then { s with run := .running } else s

/-- `pause`. -/
def State.onPause (s : State) : State := if s.run = .running then { s with run := .paused } else s

/-- `resume`. -/
def State.onResume (s : State) : State := if s.run = .paused then { s with run := .running } else s

/-! ## Reset and ROM load -/

/-- CPU reset (R180). -/
def State.cpuReset (s : State) : State :=
  { s with
    pc := BitVec.ofNat 16 progBase
    i := 0#16
    stack := []
    dt := 0#8
    st := 0#8
    v := Vector.replicate 16 0#8
    res := .low
    int := false }

/-- The `reset` event (R179): IDLE, CPU reset, memory clear, framebuffer clear, then KW, KDL, SOUND_ON and FAULT.  What it
leaves is R181's list: memory below 0x200, the keypad, SPEED, SOUND_EN, load_ok, the parameters. -/
def State.onReset (s : State) : State :=
  { State.cpuReset { s with run := .idle } with
    mem := s.mem.clear
    phys := Grid.blank
    kw := false
    kdl := false
    soundOn := false
    fault := none }

/-- `load_rom(bytes)`: reset and the font; then the ROM and `load_ok` true if it is no longer than ROM_MAX (R183), else no
byte and `load_ok` false (R184). -/
def State.onLoadRom (s : State) (bytes : List Byte) : State :=
  let r := s.onReset
  let withFont := r.mem.writeBytes fontBase fontTable
  if bytes.length ≤ romMax then
    { r with mem := withFont.writeBytes progBase bytes, loadOk := true }
  else
    { r with mem := withFont, loadOk := false }

/-! ## Speed and sound -/

/-- `set_speed(f)` (R169): ignored unless `f > 0`. -/
def State.onSetSpeed (s : State) (f : HostReal) : State :=
  if f.isPositive then { s with speed := f } else s

/-- `set_sound(b)` (R170): it reaches SOUND_ON at the next timer tick. -/
def State.onSetSound (s : State) (b : Bool) : State := { s with soundEn := b }

end Sys2Proof.Machine
end

