-- ==== Sys2Proof/Machine/Flags.lean ====
section
/-! DEFINITION. Every value VF is given as a flag (10_state.md R22).  Each is exactly 0 or 1 (42_alu.md R124), but for
`HIRES_VF = ROW_COUNT`. -/

namespace Sys2Proof.Machine

/-- A condition as the byte VF holds. -/
def flagByte (b : Bool) : Byte := if b then 1#8 else 0#8

/-- The carry out of bit 7: the unsigned sum exceeds 255 (R118). -/
def carryFlag (a b : Byte) : Byte := flagByte (decide (255 < a.toNat + b.toNat))

/-- NOT borrow of `a - b`: 1 when `a ≥ b` (R119, R121). -/
def noBorrowFlag (a b : Byte) : Byte := flagByte (decide (b.toNat ≤ a.toNat))

/-- Bit 0 of the source, shifted out by SHR (R120). -/
def shiftedOutRight (a : Byte) : Byte := a &&& 1#8

/-- Bit 7 of the source, shifted out by SHL (R122). -/
def shiftedOutLeft (a : Byte) : Byte := a >>> 7

/-- After OR, AND and XOR: VF cleared when VF_RESET is set, else not written (R115 to R117). -/
def State.logicFlag (s : State) : State := if s.par.q.vfReset then s.setVF 0#8 else s

/-- ADD_IV's overflow: the exact sum exceeds `FX1E_LIMIT` (R136). -/
def indexOverflowFlag (limit : Nat) (i : Word) (b : Byte) : Byte :=
  flagByte (decide (limit < i.toNat + b.toNat))

/-- `HiresVF(collide, clipped, rows_hit)` (R131). -/
def hiresVf (rule : HiresVfRule) (collide clipped : Bool) (rowsHit : Nat) : Byte :=
  match rule with
  | .collideOrBottomClip => flagByte (collide || clipped)
  | .collideOnly => flagByte collide
  | .rowCount => BitVec.ofNat 8 rowsHit

/-- VF after DRW: the collision in LOW, `HiresVF` in HIGH (R131). -/
def drawFlag (res : Resolution) (rule : HiresVfRule) (collide clipped : Bool) (rowsHit : Nat) : Byte :=
  match res with
  | .low => flagByte collide
  | .high => hiresVf rule collide clipped rowsHit

end Sys2Proof.Machine
end

