-- ==== Sys2Proof/Machine/Operands.lean ====
section
/-! DEFINITION. The operand forms: registers chosen by a quirk, the scroll amounts, the sprite in memory, decimal digits, the
register block. -/

namespace Sys2Proof.Machine

/-- The source of SHR and SHL: V[x] when SHIFTING is set, else V[y] (R120, R122). -/
def State.shiftSource (s : State) (x y : Nibble) : Byte :=
  if s.par.q.shifting then s.reg x else s.reg y

/-- `x` of JMP_OFF: the top nibble of `nnn` (R76, R111). -/
def addrTopNibble (nnn : Addr12) : Nibble := nnn.extractLsb' 8 4

/-- The offset of JMP_OFF: V[nnn[11:8]] when JUMPING is set, else V[0] (R111). -/
def State.jumpOffset (s : State) (nnn : Addr12) : Byte :=
  if s.par.q.jumping then s.reg (addrTopNibble nnn) else s.reg 0x0

/-- `zext_16(nnn)` (R75). -/
def addrOf (nnn : Addr12) : Word := nnn.setWidth 16

/-- The address of a glyph, `FONT_BASE + 5 * V[x]`, the full byte used (R137). -/
def glyphAddr (d : Byte) : Word := BitVec.ofNat 16 (fontBase + 5 * d.toNat)

/-- Whether the stored key is down and is the key in V[x], compared in full 8 bits (R142, R148). -/
def State.keyMatches (s : State) (x : Nibble) : Bool :=
  s.pressed && s.key.any (fun k => k.setWidth 8 == s.reg x)

/-- Hundreds, tens and units, the hundreds first (R138). -/
def decimalDigits (b : Byte) : List Byte := [b / 100#8, (b / 10#8) % 10#8, b % 10#8]

/-- `I + x + 1` when MEMORY is set, else `I` (R37, R139, R140). -/
def State.indexAfterBlock (s : State) (x : Nibble) : Word :=
  if s.par.q.memory then s.i + BitVec.ofNat 16 (x.toNat + 1) else s.i

/-- `V[0]`, ..., `V[x]` (R76, R139). -/
def State.regBlock (s : State) (x : Nibble) : List Byte := s.v.toList.take (x.toNat + 1)

/-- The register file with `V[k] <- MemRead(I + k, 1)` for `k` in 0..x (R140). -/
def State.loadedRegs (s : State) (x : Nibble) : Vector Byte 16 :=
  Vector.ofFn fun k => if k.val ≤ x.toNat then s.mem.read (s.i.toNat + k.val) else s.v[k]

/-! ## Scroll amounts (R98) -/

/-- What a scroll moves by, given the amount in the current resolution's physical units: in LOW the policy keeps it, doubles
it (logical units) or drops the scroll (R98). -/
def State.scrollAmount (s : State) (amount : Nat) : Option Nat :=
  match s.res with
  | .high => some amount
  | .low =>
    match s.par.lowresScroll with
    | .physical => some amount
    | .logical => some (2 * amount)
    | .noop => none

/-- The framebuffer moved by a scroll of `amount`, or unchanged where the policy drops it (R98). -/
def State.scrolled (s : State) (move : Grid → Nat → Grid) (amount : Nat) : Grid :=
  match s.scrollAmount amount with
  | some k => move s.phys k
  | none => s.phys

/-! ## The sprite (R126, R127) -/

/-- A sprite's width in pixels, its rows and its bytes a row. -/
structure SpriteShape where
  width : Nat
  height : Nat
  bytesPerRow : Nat
  deriving DecidableEq, Repr

/-- 16 by 16 for `n = 0` in HIGH, else 8 by `n` (R126). -/
def spriteShape (res : Resolution) (n : Nibble) : SpriteShape :=
  if res = .high ∧ n = 0#4 then { width := 16, height := 16, bytesPerRow := 2 }
  else { width := 8, height := n.toNat, bytesPerRow := 1 }

/-- Row `r` of the sprite at address `base`, as 16 bits whose bit 15 is the leftmost pixel; the byte at the lower address is the
left half (R125, R127). -/
def spriteRow (m : Memory) (base : Nat) (shape : SpriteShape) (r : Nat) : BitVec 16 :=
  if shape.bytesPerRow = 1 then m.read (base + r) ++ 0#8
  else m.read (base + 2 * r) ++ m.read (base + 2 * r + 1)

end Sys2Proof.Machine
end

