-- ==== Sys2Proof/Machine/Alu.lean ====
section
/-! DEFINITION. Register and arithmetic instructions (42_alu.md).  Operands are read before any write, and VF is written last
(00_scope.md R15; log 25).  PC is not touched. -/

namespace Sys2Proof.Machine

/-- `LD Vx, kk` (R112). -/
def execLdVK (x : Nibble) (kk : Byte) (s : State) : Result := .next (s.setV x kk)

/-- `ADD Vx, kk` (R113): wraps, no flag. -/
def execAddVK (x : Nibble) (kk : Byte) (s : State) : Result := .next (s.setV x (s.reg x + kk))

/-- `LD Vx, Vy` (R114). -/
def execLdVV (x y : Nibble) (s : State) : Result := .next (s.setV x (s.reg y))

/-- `OR Vx, Vy` (R115). -/
def execOr (x y : Nibble) (s : State) : Result := .next (s.setV x (s.reg x ||| s.reg y)).logicFlag

/-- `AND Vx, Vy` (R116). -/
def execAnd (x y : Nibble) (s : State) : Result := .next (s.setV x (s.reg x &&& s.reg y)).logicFlag

/-- `XOR Vx, Vy` (R117). -/
def execXor (x y : Nibble) (s : State) : Result := .next (s.setV x (s.reg x ^^^ s.reg y)).logicFlag

/-- `ADD Vx, Vy` (R118). -/
def execAddVV (x y : Nibble) (s : State) : Result :=
  .next ((s.setV x (s.reg x + s.reg y)).setVF (carryFlag (s.reg x) (s.reg y)))

/-- `SUB Vx, Vy` (R119). -/
def execSub (x y : Nibble) (s : State) : Result :=
  .next ((s.setV x (s.reg x - s.reg y)).setVF (noBorrowFlag (s.reg x) (s.reg y)))

/-- `SHR Vx, Vy` (R120). -/
def execShr (x y : Nibble) (s : State) : Result :=
  .next ((s.setV x (s.shiftSource x y >>> 1)).setVF (shiftedOutRight (s.shiftSource x y)))

/-- `SUBN Vx, Vy` (R121). -/
def execSubn (x y : Nibble) (s : State) : Result :=
  .next ((s.setV x (s.reg y - s.reg x)).setVF (noBorrowFlag (s.reg y) (s.reg x)))

/-- `SHL Vx, Vy` (R122). -/
def execShl (x y : Nibble) (s : State) : Result :=
  .next ((s.setV x (s.shiftSource x y <<< 1)).setVF (shiftedOutLeft (s.shiftSource x y)))

/-- `RND Vx, kk` (R123): one draw, whatever the mask. -/
def execRnd (x : Nibble) (kk : Byte) (s : State) : Result :=
  .next (s.drawRandom.setV x (s.randomByte &&& kk))

end Sys2Proof.Machine
end

