-- ==== Sys2Proof/Machine/Draw.lean ====
section
/-! DEFINITION. Sprite drawing (43_draw.md).  R125's pseudocode, its two loops as folds. -/

namespace Sys2Proof.Machine

/-- What the loops of R125 carry. -/
structure Blit where
  grid : Grid
  collide : Bool
  clipped : Bool
  rowsHit : Nat
  deriving DecidableEq, Repr

/-- What stays fixed during a DRW: the clipping flag, the resolution, the start coordinates and the sprite. -/
structure SpriteJob where
  clipping : Bool
  res : Resolution
  x0 : Nat
  y0 : Nat
  width : Nat

/-- One sprite pixel at column `c` of a row that lands on screen row `py` (R125's inner loop, R129, R130): the grid and
whether the row has collided so far. -/
def blitPixel (j : SpriteJob) (row : BitVec 16) (py : Nat) (acc : Grid × Bool) (c : Nat) : Grid × Bool :=
  if row.getLsbD (15 - c) then
    let px := j.x0 + c
    if px < j.res.width then
      (fbSet acc.1 px py (!fbGet acc.1 px py j.res) j.res, acc.2 || fbGet acc.1 px py j.res)
    else if j.clipping then acc
    else
      let px := px - j.res.width
      (fbSet acc.1 px py (!fbGet acc.1 px py j.res) j.res, acc.2 || fbGet acc.1 px py j.res)
  else acc

/-- All the pixels of a sprite row that lands on screen row `py`. -/
def blitPixels (j : SpriteJob) (row : BitVec 16) (py : Nat) (g : Grid) : Grid × Bool :=
  (List.range j.width).foldl (blitPixel j row py) (g, false)

/-- A sprite row drawn on screen row `py`: its collision is counted (R125, R130). -/
def blitOnRow (j : SpriteJob) (row : BitVec 16) (py : Nat) (acc : Blit) : Blit :=
  let out := blitPixels j row py acc.grid
  { grid := out.1, collide := acc.collide || out.2, clipped := acc.clipped, rowsHit := acc.rowsHit + out.2.toNat }

/-- Sprite row `r` (R125's outer loop, R129): past the bottom edge it is clipped or wraps. -/
def blitRow (j : SpriteJob) (rowOf : Nat → BitVec 16) (acc : Blit) (r : Nat) : Blit :=
  let py := j.y0 + r
  if py < j.res.height then blitOnRow j (rowOf r) py acc
  else if j.clipping then { acc with clipped := true, rowsHit := acc.rowsHit + 1 }
  else blitOnRow j (rowOf r) (py - j.res.height) acc

/-- The whole sprite of `height` rows (R125). -/
def blit (j : SpriteJob) (rowOf : Nat → BitVec 16) (height : Nat) (g : Grid) : Blit :=
  (List.range height).foldl (blitRow j rowOf) { grid := g, collide := false, clipped := false, rowsHit := 0 }

/-- The fixed part of `DRW Vx, Vy, n`: the start coordinates are reduced into the screen (R128). -/
def State.spriteJob (s : State) (x y n : Nibble) : SpriteJob :=
  { clipping := s.par.q.clipping
    res := s.res
    x0 := (s.reg x).toNat % s.res.width
    y0 := (s.reg y).toNat % s.res.height
    width := (spriteShape s.res n).width }

/-- The blit of `DRW Vx, Vy, n` from the sprite at I. -/
def State.drawn (s : State) (x y n : Nibble) : Blit :=
  blit (s.spriteJob x y n) (spriteRow s.mem s.i.toNat (spriteShape s.res n)) (spriteShape s.res n).height s.phys

/-- The bytes of the sprite of `DRW` with row count `n` (R126, R127). -/
def spriteBytes (res : Resolution) (n : Nibble) : Nat := (spriteShape res n).height * (spriteShape res n).bytesPerRow

/-- `DRW Vx, Vy, n` (R125): every byte is checked before any pixel is written (R127); then the pixels, VF (R131), and
INT (R132).  I is not changed. -/
def execDrw (x y n : Nibble) (s : State) : Result :=
  let b := s.drawn x y n
  .next (s.accessing s.i.toNat (spriteBytes s.res n)
    (((s.setPhys b.grid).setVF (drawFlag s.res s.par.hiresVf b.collide b.clipped b.rowsHit)).setInt true))

end Sys2Proof.Machine
end

