-- ==== Sys2Proof/Machine/Flow.lean ====
section
/-! DEFINITION. Control flow (41_flow.md): jumps, calls and skips.  On entry PC = A + 2. -/

namespace Sys2Proof.Machine

/-- `JMP nnn` (R104). -/
def execJmp (nnn : Addr12) (s : State) : Result := .next (s.setPc (addrOf nnn))

/-- `CALL nnn` (R105): push the address of the next instruction, then jump. -/
def execCall (nnn : Addr12) (s : State) : Result :=
  .next (s.pushing ((s.setStack (s.pc :: s.stack)).setPc (addrOf nnn)))

/-- `SE Vx, kk` (R106). -/
def execSei (x : Nibble) (kk : Byte) (s : State) : Result := .next (s.skipIf (s.reg x == kk))

/-- `SNE Vx, kk` (R107). -/
def execSnei (x : Nibble) (kk : Byte) (s : State) : Result := .next (s.skipIf (s.reg x != kk))

/-- `SE Vx, Vy` (R108). -/
def execSer (x y : Nibble) (s : State) : Result := .next (s.skipIf (s.reg x == s.reg y))

/-- `SNE Vx, Vy` (R109). -/
def execSner (x y : Nibble) (s : State) : Result := .next (s.skipIf (s.reg x != s.reg y))

/-- `JMP V0, nnn` (R111): the sum is not masked to 12 bits. -/
def execJmpOff (nnn : Addr12) (s : State) : Result :=
  .next (s.setPc (addrOf nnn + (s.jumpOffset nnn).setWidth 16))

end Sys2Proof.Machine
end

