-- ==== Sys2Proof/Machine/Group0.lean ====
section
/-! DEFINITION. Group 0x0 (40_group0.md): screen control, return, native call.  On entry PC = A + 2. -/

namespace Sys2Proof.Machine

/-- `CLS` (R94): every physical cell false. -/
def execCls (s : State) : Result := .next (s.setPhys Grid.blank)

/-- `RET` (R95): pop into PC; on an empty stack nothing. -/
def execRet (s : State) : Result :=
  match s.stack with
  | a :: rest => .next ((s.setStack rest).setPc a)
  | [] => .next s

/-- `HIGH` (R96): high resolution, and the framebuffer cleared even if it was high already. -/
def execHigh (s : State) : Result := .next ((s.setRes .high).setPhys Grid.blank)

/-- `LOW` (R97): low resolution, and the framebuffer cleared even if it was low already. -/
def execLow (s : State) : Result := .next ((s.setRes .low).setPhys Grid.blank)

/-- `SCR` (R98, R99). -/
def execScr (s : State) : Result := .next (s.setPhys (s.scrolled scrollRight scrollH))

/-- `SCL` (R98, R100). -/
def execScl (s : State) : Result := .next (s.setPhys (s.scrolled scrollLeft scrollH))

/-- `SCD n` (R98, R101). -/
def execScd (n : Nibble) (s : State) : Result := .next (s.setPhys (s.scrolled scrollDown n.toNat))

/-- `SYS nnn` (R102): PC backs up to `A`; the operand is not used. -/
def execSys (_nnn : Addr12) (s : State) : Result := .next s.stall

end Sys2Proof.Machine
end

