-- ==== Sys2Proof/Machine/IndexMemory.lean ====
section
/-! DEFINITION. Index register, font, decimal digits, block load and store (44_index_memory.md).  Every range is checked before
the first byte moves (R141). -/

namespace Sys2Proof.Machine

/-- `LD I, nnn` (R135). -/
def execLdIA (nnn : Addr12) (s : State) : Result := .next (s.setI (addrOf nnn))

/-- `ADD I, Vx` (R136): I wraps mod 2^16, VF by the exact sum. -/
def execAddIV (x : Nibble) (s : State) : Result :=
  .next ((s.setI (s.i + (s.reg x).setWidth 16)).setVF (indexOverflowFlag s.par.fx1eLimit s.i (s.reg x)))

/-- `LD F, Vx` (R137): no memory is accessed. -/
def execLdFV (x : Nibble) (s : State) : Result := .next (s.setI (glyphAddr (s.reg x)))

/-- `LD B, Vx` (R138): hundreds, tens, units at I, I + 1, I + 2; I unchanged. -/
def execLdBV (x : Nibble) (s : State) : Result :=
  .next (s.accessing s.i.toNat 3 (s.setMem (s.mem.writeBytes s.i.toNat (decimalDigits (s.reg x)))))

/-- `LD [I], Vx` (R139): V[0] to V[x] stored from I on, then I by MEMORY. -/
def execLdMV (x : Nibble) (s : State) : Result :=
  .next (s.accessing s.i.toNat (x.toNat + 1)
    ((s.setMem (s.mem.writeBytes s.i.toNat (s.regBlock x))).setI (s.indexAfterBlock x)))

/-- `LD Vx, [I]` (R140): V[0] to V[x] loaded from I on, then I by MEMORY. -/
def execLdVM (x : Nibble) (s : State) : Result :=
  .next (s.accessing s.i.toNat (x.toNat + 1)
    { s with v := s.loadedRegs x, i := s.indexAfterBlock x })

end Sys2Proof.Machine
end

