-- ==== Sys2Proof/Machine/KeysTimers.lean ====
section
/-! DEFINITION. Keypad and timer instructions (45_keys_timers.md). -/

namespace Sys2Proof.Machine

/-- `SKP Vx` (R142). -/
def execSkp (x : Nibble) (s : State) : Result := .next (s.skipIf (s.keyMatches x))

/-- `SKNP Vx` (R143): the negation of SKP's condition. -/
def execSknp (x : Nibble) (s : State) : Result := .next (s.skipIf (!s.keyMatches x))

/-- `LD Vx, DT` (R144). -/
def execLdVDT (x : Nibble) (s : State) : Result := .next (s.setV x s.dt)

/-- `LD Vx, K` (R145): arm, then wait, re-executing, until a key has gone down since arming.  In a state that no run reaches,
with KDL set and KEY = NONE, there is no key code to store and the wait goes on (log 9). -/
def execLdVKey (x : Nibble) (s : State) : Result :=
  if !s.kw then .next (s.setKeyWait true false).stall
  else if s.kdl then
    match s.key with
    | some k => .next ((s.setV x (k.setWidth 8)).setKeyWait false false)
    | none => .next s.stall
  else .next s.stall

/-- `LD DT, Vx` (R146). -/
def execLdDTV (x : Nibble) (s : State) : Result := .next (s.setDt (s.reg x))

/-- `LD ST, Vx` (R147): SOUND_ON is not touched. -/
def execLdSTV (x : Nibble) (s : State) : Result := .next (s.setSt (s.reg x))

end Sys2Proof.Machine
end

