-- ==== Sys2Proof/Machine/Tick.lean ====
section
/-! DEFINITION. The CPU tick (30_encoding.md R82) and the handling of one input event (20_memory.md R64). -/

namespace Sys2Proof.Machine

/-- Whether a CPU tick fetches: RUN is RUNNING, no fault is latched, and no display wait holds (R82, R83, R156, R158). -/
def State.cpuRuns (s : State) : Bool :=
  s.run == .running && s.fault.isNone && !(s.par.q.displayWait && s.int)

/-- Execute the fetched word with PC already `A + 2`, and strobe `draw` (R82, R85). -/
def executeWord (op : Word) (s : State) : Result :=
  match decodeWord op with
  | .ok i => finishTick (exec i s)
  | .error _ => finishTick (.next (unmappedWord op s))

/-- `cpu_tick()` (R82): nothing, or fetch, decode and execute; a fetch out of bounds faults with PC not advanced (R84). -/
def cpuTick (s : State) : Result :=
  if s.cpuRuns then
    match fetch s with
    | .error a => .next (s.latchFault .fetchBounds s.pc a)
    | .ok op => executeWord op (s.setPc (s.pc + 2#16))
  else .next s

/-- One input event, atomically (R64, R66). -/
def handleEvent (e : Event) (s : State) : Result :=
  match e with
  | .cpuTick => cpuTick s
  | .timerTick => .next s.onTimerTick
  | .keyDown k => .next (s.onKeyDown k)
  | .keyUp k => .next (s.onKeyUp k)
  | .start => .next s.onStart
  | .pause => .next s.onPause
  | .resume => .next s.onResume
  | .reset => .next s.onReset
  | .loadRom bytes => .next (s.onLoadRom bytes)
  | .setSpeed f => .next (s.onSetSpeed f)
  | .setSound b => .next (s.onSetSound b)

/-- The next event: the first that waits, or a CPU tick when none does (log 3). -/
def State.nextEvent (s : State) : Event := s.inputs.headD .cpuTick

/-- The state with the next event taken off the list. -/
def State.takeEvent (s : State) : State := { s with inputs := s.inputs.tail }

/-- One step of the machine: its next event. -/
def stepEvent (s : State) : Result := handleEvent s.nextEvent s.takeEvent

/-- `s` with a word stored at PC and everything else set that a CPU tick needs to fetch and run it next: RUN running, no fault
latched, no display wait, a CPU tick as the next event.  A PC no word can be fetched at is set to 0x200 (log 13). -/
def State.withWordAtPc (s : State) (op : Word) : State :=
  let a : Word := if s.pc.toNat + 1 < memSize then s.pc else BitVec.ofNat 16 progBase
  { s with
    pc := a
    mem := s.mem.writeBytes a.toNat (bytesOfWord op)
    run := .running
    fault := none
    int := s.int && !s.par.q.displayWait
    inputs := .cpuTick :: s.inputs }

end Sys2Proof.Machine
end

