-- ==== Sys2Proof/Machine/Step.lean ====
section
/-! DEFINITION. One step: the next input event (Machine/Tick.lean). -/

namespace Sys2Proof.Machine

/-- One step of the machine (20_memory.md R64): one event, atomically. -/
def step (s : State) : Host.Outcome State Fault Refusal := stepEvent s

/-- `s` with the instruction word `w` of the opcode table stored where the next step fetches, so that this step runs it.  Bits
above `nbits` are 0 (log 13). -/
def State.withFetchWord (s : State) (nbits w : Nat) : State :=
  s.withWordAtPc (BitVec.ofNat 16 (w % 2 ^ nbits))

end Sys2Proof.Machine
end

