-- ==== Sys2Proof/Machine/Outputs.lean ====
section
/-! DEFINITION. The outputs that are derived from the state (00_scope.md R7).  The others are fields of State: `framebuffer` is
`phys`, `sound_on` is `soundOn`, `load_ok` is `loadOk`, `fault` is `fault`, and `draws` counts the strobes of `draw`. -/

namespace Sys2Proof.Machine

/-- `running` (R172). -/
def State.running (s : State) : Bool := s.run == .running

/-- `fb_view[y][x]` (R171): the 64 by 32 view through the LOW accessor, whatever RES is. -/
def State.fbView (s : State) (y x : Nat) : Bool := fbGet s.phys x y .low

/-- The `fault` output as codes: the cause's code, the address and the info, or none (R7, R150). -/
def State.faultOutput (s : State) : Option (Nat × Nat × Nat) :=
  s.fault.map fun f => (f.cause.code, f.pc.toNat, f.info)

/-- The nominal period of the CPU clock input in seconds, `1 / (CPU_HZ × SPEED)` (R165).  The model has no time (R194): no
step reads it. -/
noncomputable def State.cpuPeriod (s : State) : ℝ := 1 / (s.par.cpuHz.value * s.speed.value)

/-- The nominal period of the timer clock input in seconds, `1 / (60 × SPEED)` (R165). -/
noncomputable def State.timerPeriod (s : State) : ℝ := 1 / (timerHz * s.speed.value)

end Sys2Proof.Machine
end

