-- ==== Sys2Proof/Safety.lean ====
section
/-! DEFINITION. What the claims call a sound state: an invariant of the machine, part by part; and when the CPU is stopped. -/

namespace Sys2Proof.Machine

/-- What a latched fault says of the state it is latched in (60_exceptions.md R150, R151): PC is at the faulting instruction, and
`info` is what the cause records. -/
def FaultRecord.Fits (f : FaultRecord) (s : State) : Prop :=
  f.pc = s.pc ∧
  match f.cause with
  | .fetchBounds => 0x0FFF ≤ f.pc.toNat ∧ f.info = max f.pc.toNat memSize
  | .dataBounds => f.pc.toNat < 0x0FFF ∧ memSize ≤ f.info
  | .unmapped => f.pc.toNat < 0x0FFF ∧ decodeWord (BitVec.ofNat 16 f.info) = .error (.unmapped (BitVec.ofNat 16 f.info))
  | .stackLimit => f.pc.toNat < 0x0FFF ∧ s.par.stackLimit = some f.info ∧ f.info ≤ s.stack.length

/-- The invariant of the machine: it holds of every machine as built, and every step keeps it. -/
structure State.Inv (s : State) : Prop where
  /-- Memory is in canonical form, so it lists no address from 0x1000 on (R50). -/
  memory : s.mem.wf
  /-- SPEED is above 0 (R45, R169). -/
  speed : 0 < s.speed.value
  /-- PC is at most 0x10FE, the largest target of JMP_OFF (R111); so no fetch's advance wraps (R24). -/
  pc : s.pc.toNat ≤ 0x10FE
  /-- A return address is the address after a CALL (R105). -/
  returns : ∀ a ∈ s.stack, 2 ≤ a.toNat ∧ a.toNat ≤ 0x1000
  /-- A bounded stack is within its bound (R27). -/
  depth : ∀ bound, s.par.stackLimit = some bound → s.stack.length ≤ bound
  /-- A key that is pressed, or that the latch has seen, is known (R41 to R43). -/
  key : (s.pressed ∨ s.kdl) → s.key.isSome
  /-- A latched fault fits the state (R150, R151). -/
  fault : ∀ f, s.fault = some f → f.Fits s

/-- The next event is a CPU tick (R64; log 3). -/
def State.AboutToTick (s : State) : Prop := s.nextEvent = .cpuTick

/-- A CPU tick would fetch: RUN is RUNNING, no fault is latched, no display wait holds (R82, R83, R158). -/
def State.CpuReady (s : State) : Prop :=
  s.run = .running ∧ s.fault = none ∧ ¬(s.par.q.displayWait = true ∧ s.int = true)

/-- The word a fetch at PC reads (R54, R84). -/
def State.wordAtPc (s : State) : Word := wordOfBytes (s.mem.read s.pc.toNat) (s.mem.read (s.pc.toNat + 1))

end Sys2Proof.Machine
end

