-- ==== Sys2Proof/Certificates/Slice0/Obligations.lean ====
section
/-! DEFINITION. The statements for the provers.  `exec i s` is taken after the fetch, so `s.pc` is A + 2 (R84).  A conclusion
`t = { s with f := t.f, ... }` says that every field but those named is unchanged. -/

open Sys2Proof Sys2Proof.Machine

namespace Sys2Proof.Machine

/-! ## Words the statements use -/

/-- `exec i s` answers `t`, and `t` differs from `s` in the framebuffer alone, whose cell (r, c) is `cell r c`. -/
def PaintsOnly (i : Instr) (s : State) (cell : Nat → Nat → Bool) : Prop :=
  ∃ t, exec i s = .next t ∧ t = { s with phys := t.phys } ∧
    ∀ r c, r < 64 → c < 128 → Grid.pixel t.phys r c = cell r c

/-- `exec i s` answers `t`, and `t` differs from `s` in the V registers alone, of which register `r` holds `val r`. -/
def WritesRegsOnly (i : Instr) (s : State) (val : Nibble → Byte) : Prop :=
  ∃ t, exec i s = .next t ∧ t = { s with v := t.v } ∧ ∀ r, t.reg r = val r

/-- What an instruction's rule says of its encoding (R88): every word with these fixed bits decodes to `dec` of its fields. -/
def Encodes (pattern mask : Word) (dec : Word → Instr) : Prop := ∀ op : Word, op &&& mask = pattern → decodeWord op = .ok (dec op)

/-- What R151 leaves of an instruction that faults: PC back at A and the fault record, nothing else changed. -/
def faulted (s : State) (cause : Cause) (info : Nat) : State :=
  { s with pc := s.pc - 2#16, fault := some { cause := cause, pc := s.pc - 2#16, info := info } }

/-- The amount a scroll moves by (R98), 0 where LOWRES_SCROLL = NOOP drops it. -/
def scrollCount (s : State) (amount : Nat) : Nat :=
  match s.res with
  | .high => amount
  | .low =>
    match s.par.lowresScroll with
    | .physical => amount
    | .logical => 2 * amount
    | .noop => 0

/-- The font as R60 lists it, glyph by glyph.  The bytes are general knowledge (D5, log 16). -/
def r60Font : List Byte :=
  [0xF0, 0x90, 0x90, 0x90, 0xF0] ++ -- 0, at 0x050
  [0x20, 0x60, 0x20, 0x20, 0x70] ++ -- 1, at 0x055
  [0xF0, 0x10, 0xF0, 0x80, 0xF0] ++ -- 2, at 0x05A
  [0xF0, 0x10, 0xF0, 0x10, 0xF0] ++ -- 3, at 0x05F
  [0x90, 0x90, 0xF0, 0x10, 0x10] ++ -- 4, at 0x064
  [0xF0, 0x80, 0xF0, 0x10, 0xF0] ++ -- 5, at 0x069
  [0xF0, 0x80, 0xF0, 0x90, 0xF0] ++ -- 6, at 0x06E
  [0xF0, 0x10, 0x20, 0x40, 0x40] ++ -- 7, at 0x073
  [0xF0, 0x90, 0xF0, 0x90, 0xF0] ++ -- 8, at 0x078
  [0xF0, 0x90, 0xF0, 0x10, 0xF0] ++ -- 9, at 0x07D
  [0xF0, 0x90, 0xF0, 0x90, 0x90] ++ -- A, at 0x082
  [0xE0, 0x90, 0xE0, 0x90, 0xE0] ++ -- B, at 0x087
  [0xF0, 0x80, 0x80, 0x80, 0xF0] ++ -- C, at 0x08C
  [0xE0, 0x90, 0x90, 0x90, 0xE0] ++ -- D, at 0x091
  [0xF0, 0x80, 0xF0, 0x80, 0xF0] ++ -- E, at 0x096
  [0xF0, 0x80, 0xF0, 0x80, 0x80]    -- F, at 0x09B

/-- The byte at `a` after a store of `len` bytes from I on, the k-th of them `val k`. -/
def byteAfterStore (s : State) (len : Nat) (val : Nat → Byte) (a : Nat) : Byte :=
  if s.i.toNat ≤ a ∧ a < s.i.toNat + len then val (a - s.i.toNat) else s.mem.read a

/-- The decimal digits of `b`: hundreds, tens and units for k = 0, 1, 2 (R138; the order is general knowledge, D29, log 22). -/
def bcdDigit (b : Byte) (k : Nat) : Byte :=
  BitVec.ofNat 8 (if k = 0 then b.toNat / 100 else if k = 1 then b.toNat / 10 % 10 else b.toNat % 10)

/-! ### DRW, cell by cell (R125 to R131) -/

/-- Whether DRW draws a 16 by 16 sprite (R126). -/
def bigSprite (s : State) (n : Nibble) : Bool := decide (s.res = .high) && decide (n = 0#4)

/-- The sprite's height. -/
def spriteH (s : State) (n : Nibble) : Nat := if bigSprite s n then 16 else n.toNat

/-- The sprite's width. -/
def spriteW (s : State) (n : Nibble) : Nat := if bigSprite s n then 16 else 8

/-- How many bytes the sprite has. -/
def spriteLen (s : State) (n : Nibble) : Nat := if bigSprite s n then 32 else n.toNat

/-- The sprite's bit at row `r`, column `c` (R127): bit 7 of a byte is leftmost, the lower address is the left half. -/
def spriteBit (s : State) (n : Nibble) (r c : Nat) : Bool :=
  if bigSprite s n then (s.mem.read (s.i.toNat + 2 * r + c / 8)).getLsbD (7 - c % 8)
  else (s.mem.read (s.i.toNat + r)).getLsbD (7 - c)

/-- Where offset `off` from the start coordinate `start` falls on an axis of `size`, or nowhere when it is clipped (R129). -/
def landing (clipping : Bool) (start off size : Nat) : Option Nat :=
  if start + off < size then some (start + off) else if clipping then none else some (start + off - size)

/-- The screen column of sprite column `c` (R128, R129). -/
def landX (s : State) (x : Nibble) (c : Nat) : Option Nat :=
  landing s.par.q.clipping ((s.reg x).toNat % s.res.width) c s.res.width

/-- The screen row of sprite row `r` (R128, R129). -/
def landY (s : State) (y : Nibble) (r : Nat) : Option Nat :=
  landing s.par.q.clipping ((s.reg y).toNat % s.res.height) r s.res.height

/-- A set bit of the sprite lands on logical pixel (px, py). -/
def Lights (s : State) (x y n : Nibble) (px py : Nat) : Prop :=
  ∃ r c, r < spriteH s n ∧ c < spriteW s n ∧ spriteBit s n r c = true ∧ landX s x c = some px ∧ landY s y r = some py

/-- The set bit (r, c) of the sprite lands on a pixel that is on (R130). -/
def bitHits (s : State) (x y n : Nibble) (r c : Nat) : Bool :=
  spriteBit s n r c &&
    match landX s x c, landY s y r with
    | some px, some py => fbGet s.phys px py s.res
    | _, _ => false

/-- Sprite row `r` collides. -/
def rowCollides (s : State) (x y n : Nibble) (r : Nat) : Bool := (List.range (spriteW s n)).any (bitHits s x y n r)

/-- `collide` of R125. -/
def anyCollision (s : State) (x y n : Nibble) : Bool := (List.range (spriteH s n)).any (rowCollides s x y n)

/-- `clipped` of R125: a row clipped at the bottom edge. -/
def anyRowClipped (s : State) (y n : Nibble) : Bool := (List.range (spriteH s n)).any fun r => (landY s y r).isNone

/-- `rows_hit` of R125: rows that collided or were clipped off the bottom edge. -/
def countRowsHit (s : State) (x y n : Nibble) : Nat :=
  (List.range (spriteH s n)).countP fun r => (landY s y r).isNone || rowCollides s x y n r

/-- The registers an instruction writes (R21): `destReg i q r` says that it may write `V[r]`. -/
def destReg (i : Instr) (q : Quirks) (r : Nibble) : Bool :=
  match i with
  | .ldVK x _ | .addVK x _ | .rnd x _ | .ldVV x _ | .ldVDT x | .ldVKey x => r == x
  | .orVV x _ | .andVV x _ | .xorVV x _ => r == x || (q.vfReset && r == 0xF#4)
  | .addVV x _ | .sub x _ | .subn x _ | .shr x _ | .shl x _ => r == x || r == 0xF#4
  | .drw _ _ _ | .addIV _ => r == 0xF#4
  | .ldVM x => decide (r.toNat ≤ x.toNat)
  | .cls | .ret | .high | .low | .scr | .scl | .scd _ | .sys _ => false
  | .jmp _ | .call _ | .jmpOff _ | .ldIA _ => false
  | .sei _ _ | .snei _ _ | .ser _ _ | .sner _ _ | .skp _ | .sknp _ => false
  | .ldDTV _ | .ldSTV _ | .ldFV _ | .ldBV _ | .ldMV _ => false

/-- The instructions that write the framebuffer (R36). -/
def drawsOnScreen : Instr → Bool
  | .cls | .high | .low | .scr | .scl | .scd _ | .drw _ _ _ => true
  | .ret | .sys _ | .jmp _ | .call _ | .jmpOff _ | .ldIA _ => false
  | .sei _ _ | .snei _ _ | .ser _ _ | .sner _ _ | .skp _ | .sknp _ => false
  | .ldVK _ _ | .addVK _ _ | .rnd _ _ | .ldVV _ _ | .orVV _ _ | .andVV _ _ | .xorVV _ _ => false
  | .addVV _ _ | .sub _ _ | .subn _ _ | .shr _ _ | .shl _ _ | .addIV _ => false
  | .ldVDT _ | .ldVKey _ | .ldDTV _ | .ldSTV _ | .ldFV _ | .ldBV _ | .ldMV _ | .ldVM _ => false

end Sys2Proof.Machine

/-! ## Group 0x0 -/

/-- R94: `0_E0` is CLS, which makes every physical cell false and changes nothing else (RES and INT included).  That the word is CLS
for every nibble x is the spec's choice D9 (log 35). -/
def Obligations.ClsClearsEveryCell : Prop :=
  Encodes 0x00E0 0xF0FF (fun _ => .cls) ∧ ∀ s : State, PaintsOnly .cls s fun _ _ => false

/-- R96, R97: HIGH and LOW set RES and clear every cell, whatever RES was (the spec's choice D26, log 39); nothing else
changes. -/
def Obligations.HighAndLowSetResolutionAndClear : Prop :=
  ∀ s : State,
    (∃ t, exec .high s = .next t ∧ t = { s with res := .high, phys := t.phys } ∧
      ∀ r c, Grid.pixel t.phys r c = false) ∧
    (∃ t, exec .low s = .next t ∧ t = { s with res := .low, phys := t.phys } ∧
      ∀ r c, Grid.pixel t.phys r c = false)

/-- R95: RET pops the top of the stack into PC, and on an empty stack changes nothing (PC stays A + 2: the spec's choice D12,
log 39). -/
def Obligations.RetPopsOrDoesNothing : Prop :=
  ∀ s : State,
    (∀ a rest, s.stack = a :: rest → exec .ret s = .next { s with pc := a, stack := rest }) ∧
    (s.stack = [] → exec .ret s = .next s)

/-- R98 to R101: where each cell comes from after SCR, SCL and SCD n, in both resolutions and under each LOWRES_SCROLL; the
vacated cells are false and nothing but the framebuffer changes.  The amounts are the spec's choice D25 (log 18). -/
def Obligations.ScrollsMoveCells : Prop :=
  ∀ s : State,
    (let k := scrollCount s 4
     PaintsOnly .scr s fun r c => decide (k ≤ c) && Grid.pixel s.phys r (c - k)) ∧
    (let k := scrollCount s 4
     PaintsOnly .scl s fun r c => decide (c + k < 128) && Grid.pixel s.phys r (c + k)) ∧
    (∀ n : Nibble, let k := scrollCount s n.toNat
     PaintsOnly (.scd n) s fun r c => decide (k ≤ r) && Grid.pixel s.phys (r - k) c)

/-- R102: a group-0 word that no other row claims is SYS, which backs PC up to A and changes nothing else; so a tick that fetches one
leaves the state as it was but for the `draw` strobe, which it gives; the timer tick still counts there and changes nothing but what a
timer tick changes; and while the word at PC is a SYS, every event but `reset` and `load_rom` leaves PC, that word and all of memory as
they were.  The list of events and the count of strobes are the model's form of the inputs and the output (log 3, 5). -/
def Obligations.SysStalls : Prop :=
  (∀ op : Word, op &&& 0xF000 = 0x0000 → claimedLowByte (op.extractLsb' 0 8) = false →
    decodeWord op = .ok (.sys (op.extractLsb' 0 12))) ∧
  (∀ (s : State) (nnn : Addr12), exec (.sys nnn) s = .next { s with pc := s.pc - 2#16 }) ∧
  (∀ (s : State) (nnn : Addr12), s.AboutToTick → s.CpuReady → s.pc.toNat < 0x0FFF → decodeWord s.wordAtPc = .ok (.sys nnn) →
    step s = .next { s with inputs := s.inputs.tail, draws := s.draws + 1 }) ∧
  (∀ (s : State) (nnn : Addr12) (rest : List Event), s.run = .running → decodeWord s.wordAtPc = .ok (.sys nnn) →
    s.inputs = .timerTick :: rest →
    ∃ t, step s = .next t ∧
      t = { s with inputs := rest, dt := t.dt, st := t.st, soundOn := t.soundOn, int := false } ∧
      t.dt.toNat = s.dt.toNat - 1 ∧ t.st.toNat = s.st.toNat - 1) ∧
  (∀ (s : State) (nnn : Addr12), decodeWord s.wordAtPc = .ok (.sys nnn) → s.nextEvent ≠ .reset →
    (∀ bs, s.nextEvent ≠ .loadRom bs) →
    ∃ t, step s = .next t ∧ t.pc = s.pc ∧ t.mem = s.mem ∧ t.wordAtPc = s.wordAtPc)

/-! ## Control flow -/

/-- R104: `1nnn` is JMP, which sets PC to the zero-extended address and nothing else. -/
def Obligations.JmpSetsPc : Prop :=
  Encodes 0x1000 0xF000 (fun op => .jmp (op.extractLsb' 0 12)) ∧
  ∀ (s : State) (nnn : Addr12), exec (.jmp nnn) s = .next { s with pc := BitVec.ofNat 16 nnn.toNat }

/-- R105: CALL pushes PC (A + 2: general knowledge, D11, log 23) and jumps; nothing else changes.  With a depth bound (R27, log 8) a
push beyond it is the precise fault STACK_LIMIT and does nothing. -/
def Obligations.CallPushesAndJumps : Prop :=
  ∀ (s : State) (nnn : Addr12),
    ((∀ bound, s.par.stackLimit = some bound → s.stack.length < bound) →
      exec (.call nnn) s = .next { s with stack := s.pc :: s.stack, pc := BitVec.ofNat 16 nnn.toNat }) ∧
    (∀ bound, s.par.stackLimit = some bound → bound ≤ s.stack.length →
      exec (.call nnn) s = .next (faulted s .stackLimit bound))

/-- R106 to R109: the encodings of SEI, SNEI, SER and SNER; they add 2 to PC when their comparison holds, and change nothing else. -/
def Obligations.RegisterSkips : Prop :=
  Encodes 0x3000 0xF000 (fun op => .sei (op.extractLsb' 8 4) (op.extractLsb' 0 8)) ∧
  Encodes 0x4000 0xF000 (fun op => .snei (op.extractLsb' 8 4) (op.extractLsb' 0 8)) ∧
  Encodes 0x5000 0xF00F (fun op => .ser (op.extractLsb' 8 4) (op.extractLsb' 4 4)) ∧
  Encodes 0x9000 0xF00F (fun op => .sner (op.extractLsb' 8 4) (op.extractLsb' 4 4)) ∧
  ∀ (s : State) (x y : Nibble) (kk : Byte),
    exec (.sei x kk) s = .next (if s.reg x = kk then { s with pc := s.pc + 2#16 } else s) ∧
    exec (.snei x kk) s = .next (if s.reg x ≠ kk then { s with pc := s.pc + 2#16 } else s) ∧
    exec (.ser x y) s = .next (if s.reg x = s.reg y then { s with pc := s.pc + 2#16 } else s) ∧
    exec (.sner x y) s = .next (if s.reg x ≠ s.reg y then { s with pc := s.pc + 2#16 } else s)

/-- R111: JMP_OFF's target is the exact sum of the address and V[nnn[11:8]] or V[0] by JUMPING; it is not masked (the spec's choice
D48, log 34).  Nothing but PC changes. -/
def Obligations.JmpOffAddsChosenRegister : Prop :=
  ∀ (s : State) (nnn : Addr12), ∃ t, exec (.jmpOff nnn) s = .next t ∧ t = { s with pc := t.pc } ∧
    (s.par.q.jumping = true → t.pc.toNat = nnn.toNat + (s.reg (BitVec.ofNat 4 (nnn.toNat / 256))).toNat) ∧
    (s.par.q.jumping = false → t.pc.toNat = nnn.toNat + (s.reg 0x0).toNat)

/-! ## Registers and arithmetic -/

/-- R112, R114: the encodings of LD_VK and LD_VV, which write V[x] and nothing else. -/
def Obligations.LoadsWriteOneRegister : Prop :=
  Encodes 0x6000 0xF000 (fun op => .ldVK (op.extractLsb' 8 4) (op.extractLsb' 0 8)) ∧
  Encodes 0x8000 0xF00F (fun op => .ldVV (op.extractLsb' 8 4) (op.extractLsb' 4 4)) ∧
  ∀ (s : State) (x y : Nibble) (kk : Byte),
    (WritesRegsOnly (.ldVK x kk) s fun r => if r = x then kk else s.reg r) ∧
    (WritesRegsOnly (.ldVV x y) s fun r => if r = x then s.reg y else s.reg r)

/-- R113: `7xkk` is ADD_VK, which adds mod 2^8 and writes no flag: with x = F the sum is what VF holds. -/
def Obligations.AddImmediateWrapsWithoutFlag : Prop :=
  Encodes 0x7000 0xF000 (fun op => .addVK (op.extractLsb' 8 4) (op.extractLsb' 0 8)) ∧
  ∀ (s : State) (x : Nibble) (kk : Byte),
    WritesRegsOnly (.addVK x kk) s fun r =>
      if r = x then BitVec.ofNat 8 (((s.reg x).toNat + kk.toNat) % 256) else s.reg r

/-- R115 to R117: the encodings of OR, AND and XOR, which write V[x] bit by bit; then VF is 0 when VF_RESET is set, else not written
as a flag.  That VF is written last and the operands are read first, which shows when x = F or y = F, is the spec's choice D10
(log 25). -/
def Obligations.LogicWritesResultThenFlag : Prop :=
  Encodes 0x8001 0xF00F (fun op => .orVV (op.extractLsb' 8 4) (op.extractLsb' 4 4)) ∧
  Encodes 0x8002 0xF00F (fun op => .andVV (op.extractLsb' 8 4) (op.extractLsb' 4 4)) ∧
  Encodes 0x8003 0xF00F (fun op => .xorVV (op.extractLsb' 8 4) (op.extractLsb' 4 4)) ∧
  ∀ (s : State) (x y : Nibble),
    let ends (op : Bool → Bool → Bool) (r : Nibble) (b : Byte) : Prop :=
      if r = 0xF#4 ∧ s.par.q.vfReset = true then b = 0#8
      else if r = x then ∀ k, k < 8 → b.getLsbD k = op ((s.reg x).getLsbD k) ((s.reg y).getLsbD k)
      else b = s.reg r
    (∃ t, exec (.orVV x y) s = .next t ∧ t = { s with v := t.v } ∧ ∀ r, ends or r (t.reg r)) ∧
    (∃ t, exec (.andVV x y) s = .next t ∧ t = { s with v := t.v } ∧ ∀ r, ends and r (t.reg r)) ∧
    (∃ t, exec (.xorVV x y) s = .next t ∧ t = { s with v := t.v } ∧ ∀ r, ends xor r (t.reg r))

/-- R118: ADD_VV gives the sum mod 2^8 and the carry.  VF is written last (the spec's choice D10, log 25). -/
def Obligations.AddGivesSumAndCarry : Prop :=
  ∀ (s : State) (x y : Nibble),
    WritesRegsOnly (.addVV x y) s fun r =>
      if r = 0xF#4 then (if (s.reg x).toNat + (s.reg y).toNat > 255 then 1#8 else 0#8)
      else if r = x then BitVec.ofNat 8 (((s.reg x).toNat + (s.reg y).toNat) % 256)
      else s.reg r

/-- R119, R121: SUB and SUBN give the difference mod 2^8 and VF = NOT borrow.  VF is written last (the spec's choice D10,
log 25). -/
def Obligations.SubtractsGiveDifferenceAndNoBorrow : Prop :=
  ∀ (s : State) (x y : Nibble),
    let ends (a b : Byte) (r : Nibble) : Byte :=
      if r = 0xF#4 then (if b.toNat ≤ a.toNat then 1#8 else 0#8)
      else if r = x then BitVec.ofInt 8 ((a.toNat : Int) - b.toNat)
      else s.reg r
    WritesRegsOnly (.sub x y) s (ends (s.reg x) (s.reg y)) ∧ WritesRegsOnly (.subn x y) s (ends (s.reg y) (s.reg x))

/-- R120, R122: SHR and SHL shift V[x] (SHIFTING set) or V[y] (clear) by one place; VF is the bit shifted out, written last (the
spec's choice D10, log 25). -/
def Obligations.ShiftsMoveOnePlace : Prop :=
  ∀ (s : State) (x y : Nibble),
    let src : Byte := if s.par.q.shifting = true then s.reg x else s.reg y
    (WritesRegsOnly (.shr x y) s fun r =>
      if r = 0xF#4 then BitVec.ofNat 8 (src.toNat % 2) else if r = x then BitVec.ofNat 8 (src.toNat / 2) else s.reg r) ∧
    (WritesRegsOnly (.shl x y) s fun r =>
      if r = 0xF#4 then BitVec.ofNat 8 (src.toNat / 128) else if r = x then BitVec.ofNat 8 (src.toNat * 2 % 256)
      else s.reg r)

/-- R123: RND writes a random byte under the mask and draws exactly once, also when the mask is 0.  That the byte is the oldest one
waiting on `rand`, and a free value when none waits, is the model's form of the input (log 4). -/
def Obligations.RndMasksOneDraw : Prop :=
  ∀ (s : State) (x : Nibble) (kk : Byte), ∃ (t : State) (b : Byte),
    exec (.rnd x kk) s = .next t ∧
    t = { s with v := t.v, rand := s.rand.tail, randUsed := s.randUsed + 1 } ∧
    (∀ c rest, s.rand = c :: rest → b = c) ∧ (s.rand = [] → b = Config.freeRandomByte s.randUsed) ∧
    ∀ r, t.reg r = if r = x then b &&& kk else s.reg r

/-! ## Drawing -/

/-- R125 to R130, R132: a DRW whose bytes all exist XORs the sprite onto the screen: every cell of a logical pixel a set sprite bit
lands on becomes the opposite of what the pixel read before, every other cell stays; INT is set; no register but VF changes, and
nothing else.  Geometry, bit order, start coordinates and clipped rows are the spec's choices (log 17, 32, 37). -/
def Obligations.DrwXorsTheSprite : Prop :=
  ∀ (s : State) (x y n : Nibble), s.i.toNat + spriteLen s n ≤ 0x1000 ∨ spriteLen s n = 0 →
    ∃ t, exec (.drw x y n) s = .next t ∧ t = { s with phys := t.phys, v := t.v, int := true } ∧
      (∀ r, r ≠ 0xF#4 → t.reg r = s.reg r) ∧
      ∀ r c, r < 64 → c < 128 →
        let px := if s.res = .high then c else c / 2
        let py := if s.res = .high then r else r / 2
        (Lights s x y n px py → Grid.pixel t.phys r c = !fbGet s.phys px py s.res) ∧
        (¬Lights s x y n px py → Grid.pixel t.phys r c = Grid.pixel s.phys r c)

/-- R131: VF after a DRW whose bytes all exist: the collision in LOW; in HIGH the value of the HIRES_VF rule (a parameter, D22,
log 19). -/
def Obligations.DrwFlag : Prop :=
  ∀ (s : State) (x y n : Nibble), s.i.toNat + spriteLen s n ≤ 0x1000 ∨ spriteLen s n = 0 →
    ∃ t, exec (.drw x y n) s = .next t ∧
      t.reg 0xF =
        match s.res with
        | .low => if anyCollision s x y n then 1#8 else 0#8
        | .high =>
          match s.par.hiresVf with
          | .collideOrBottomClip => if anyCollision s x y n || anyRowClipped s y n then 1#8 else 0#8
          | .collideOnly => if anyCollision s x y n then 1#8 else 0#8
          | .rowCount => BitVec.ofNat 8 (countRowsHit s x y n)

/-- R127: a DRW with a sprite byte at 0x1000 or above is the precise fault DATA_BOUNDS at the lowest such address (the spec's choice
D23, log 26). -/
def Obligations.DrwFaultsPrecisely : Prop :=
  ∀ (s : State) (x y n : Nibble), 0 < spriteLen s n → 0x1000 < s.i.toNat + spriteLen s n →
    exec (.drw x y n) s = .next (faulted s .dataBounds (max s.i.toNat 0x1000))

/-! ## Index register and memory -/

/-- R135: `Annn` is LD_IA, which sets I to the zero-extended address and nothing else. -/
def Obligations.LoadIndexSetsI : Prop :=
  Encodes 0xA000 0xF000 (fun op => .ldIA (op.extractLsb' 0 12)) ∧
  ∀ (s : State) (nnn : Addr12), exec (.ldIA nnn) s = .next { s with i := BitVec.ofNat 16 nnn.toNat }

/-- R136: ADD_IV adds mod 2^16, and VF, written last, is 1 exactly when the exact sum exceeds FX1E_LIMIT (the spec's choice D28,
log 24). -/
def Obligations.AddIndexSetsOverflowFlag : Prop :=
  ∀ (s : State) (x : Nibble), ∃ t, exec (.addIV x) s = .next t ∧ t = { s with i := t.i, v := t.v } ∧
    t.i.toNat = (s.i.toNat + (s.reg x).toNat) % 65536 ∧
    ∀ r, t.reg r = if r = 0xF#4 then (if s.i.toNat + (s.reg x).toNat > s.par.fx1eLimit then 1#8 else 0#8) else s.reg r

/-- R137: LD_FV sets I to 0x050 + 5 V[x], the full byte, and nothing else (the spec's choice D4, log 16). -/
def Obligations.FontLookupSetsI : Prop :=
  ∀ (s : State) (x : Nibble), ∃ t, exec (.ldFV x) s = .next t ∧ t = { s with i := t.i } ∧
    t.i.toNat = 0x050 + 5 * (s.reg x).toNat

/-- R138: LD_BV stores the hundreds, tens and units of V[x] at I, I + 1 and I + 2 (the order is general knowledge, D29, log 22) and
changes nothing else, or, when one of the three addresses is 0x1000 or above, is the precise fault DATA_BOUNDS. -/
def Obligations.BcdStoresDigits : Prop :=
  ∀ (s : State) (x : Nibble),
    (s.i.toNat + 3 ≤ 0x1000 →
      ∃ t, exec (.ldBV x) s = .next t ∧ t = { s with mem := t.mem } ∧
        (t.mem.read s.i.toNat).toNat = (s.reg x).toNat / 100 ∧
        (t.mem.read (s.i.toNat + 1)).toNat = (s.reg x).toNat / 10 % 10 ∧
        (t.mem.read (s.i.toNat + 2)).toNat = (s.reg x).toNat % 10 ∧
        ∀ a, a < s.i.toNat ∨ s.i.toNat + 3 ≤ a → t.mem.read a = s.mem.read a) ∧
    (0x1000 < s.i.toNat + 3 → exec (.ldBV x) s = .next (faulted s .dataBounds (max s.i.toNat 0x1000)))

/-- R139: LD_MV stores V[0] to V[x] from I on and advances I by x + 1 under MEMORY (the amount is general knowledge, D27, log 21),
changing nothing else; or, when one of the addresses is 0x1000 or above, is the precise fault DATA_BOUNDS. -/
def Obligations.BlockStore : Prop :=
  ∀ (s : State) (x : Nibble),
    (s.i.toNat + x.toNat + 1 ≤ 0x1000 →
      ∃ t, exec (.ldMV x) s = .next t ∧ t = { s with mem := t.mem, i := t.i } ∧
        t.i.toNat = (if s.par.q.memory then s.i.toNat + x.toNat + 1 else s.i.toNat) ∧
        (∀ k : Nibble, k.toNat ≤ x.toNat → t.mem.read (s.i.toNat + k.toNat) = s.reg k) ∧
        ∀ a, a < s.i.toNat ∨ s.i.toNat + x.toNat < a → t.mem.read a = s.mem.read a) ∧
    (0x1000 < s.i.toNat + x.toNat + 1 → exec (.ldMV x) s = .next (faulted s .dataBounds (max s.i.toNat 0x1000)))

/-- R140: LD_VM loads V[0] to V[x] from I on and advances I by x + 1 under MEMORY (D27, log 21), changing nothing else, no byte of
memory among it; or, when one of the addresses is 0x1000 or above, is the precise fault DATA_BOUNDS. -/
def Obligations.BlockLoad : Prop :=
  ∀ (s : State) (x : Nibble),
    (s.i.toNat + x.toNat + 1 ≤ 0x1000 →
      ∃ t, exec (.ldVM x) s = .next t ∧ t = { s with v := t.v, i := t.i } ∧
        t.i.toNat = (if s.par.q.memory then s.i.toNat + x.toNat + 1 else s.i.toNat) ∧
        ∀ k : Nibble, t.reg k = if k.toNat ≤ x.toNat then s.mem.read (s.i.toNat + k.toNat) else s.reg k) ∧
    (0x1000 < s.i.toNat + x.toNat + 1 → exec (.ldVM x) s = .next (faulted s .dataBounds (max s.i.toNat 0x1000)))

/-- R69, R191: a store by LD_MV or LD_BV is seen by the very next fetch: each of the fetched word's two bytes is the byte stored there,
where the store covers it, and the byte that was there otherwise.  PC is wherever it is: the store may cover both bytes, one or none.
The order of LD_BV's digits is general knowledge (D29, log 22). -/
def Obligations.StoreIsSeenByNextFetch : Prop :=
  ∀ (s : State) (x : Nibble), s.pc.toNat < 0x0FFF →
    (s.i.toNat + x.toNat + 1 ≤ 0x1000 →
      let seen := byteAfterStore s (x.toNat + 1) fun k => s.reg (BitVec.ofNat 4 k)
      ∃ t, exec (.ldMV x) s = .next t ∧ t.pc = s.pc ∧
        fetch t = .ok (wordOfBytes (seen s.pc.toNat) (seen (s.pc.toNat + 1)))) ∧
    (s.i.toNat + 3 ≤ 0x1000 →
      let seen := byteAfterStore s 3 (bcdDigit (s.reg x))
      ∃ t, exec (.ldBV x) s = .next t ∧ t.pc = s.pc ∧
        fetch t = .ok (wordOfBytes (seen s.pc.toNat) (seen (s.pc.toNat + 1))))

/-! ## Keypad and timers -/

/-- R142, R143: SKP skips exactly when the flag is set and the stored key equals V[x] in full 8 bits (the spec's choice D15, log 27),
SKNP exactly when it does not; nothing else changes. -/
def Obligations.KeySkips : Prop :=
  ∀ (s : State) (x : Nibble),
    let down : Prop := s.pressed = true ∧ ∃ k, s.key = some k ∧ k.toNat = (s.reg x).toNat
    (down → exec (.skp x) s = .next { s with pc := s.pc + 2#16 } ∧ exec (.sknp x) s = .next s) ∧
    (¬down → exec (.skp x) s = .next s ∧ exec (.sknp x) s = .next { s with pc := s.pc + 2#16 })

/-- R144, R146, R147: LD_VDT reads DT into V[x]; LD_DTV and LD_STV write DT and ST from V[x]; nothing else changes, SOUND_ON
included (the spec's choice D35, log 29). -/
def Obligations.TimerRegisterMoves : Prop :=
  ∀ (s : State) (x : Nibble),
    (WritesRegsOnly (.ldVDT x) s fun r => if r = x then s.dt else s.reg r) ∧
    exec (.ldDTV x) s = .next { s with dt := s.reg x } ∧
    exec (.ldSTV x) s = .next { s with st := s.reg x }

/-- R145: LD_VKEY arms and backs PC up; armed, it waits while no key has gone down; armed with the latch set, it stores the key's
code, disarms, and lets PC go on (the spec's choice D14, log 27). -/
def Obligations.KeyWaitArmsWaitsCompletes : Prop :=
  ∀ (s : State) (x : Nibble),
    (s.kw = false → exec (.ldVKey x) s = .next { s with kw := true, kdl := false, pc := s.pc - 2#16 }) ∧
    (s.kw = true → s.kdl = false → exec (.ldVKey x) s = .next { s with pc := s.pc - 2#16 }) ∧
    (∀ k, s.kw = true → s.kdl = true → s.key = some k →
      ∃ t, exec (.ldVKey x) s = .next t ∧ t = { s with v := t.v, kw := false, kdl := false } ∧
        ∀ r, t.reg r = if r = x then BitVec.ofNat 8 k.toNat else s.reg r)

/-- R190: an armed LD_VKEY with no key down since leaves the state as it was, tick after tick, but for the `draw` strobe. -/
def Obligations.KeyWaitIsIdempotent : Prop :=
  ∀ (s : State) (x : Nibble), s.AboutToTick → s.CpuReady → s.pc.toNat < 0x0FFF → decodeWord s.wordAtPc = .ok (.ldVKey x) →
    s.kw = true → s.kdl = false → step s = .next { s with inputs := s.inputs.tail, draws := s.draws + 1 }

/-! ## The CPU tick -/

/-- R82, R84, R85: when the two bytes at PC decode to an instruction, the step is that instruction's `exec` from PC + 2, and the
`draw` strobe unless it faulted.  That the event is taken off `inputs` is the model's (log 3). -/
def Obligations.StepRunsDecodedInstruction : Prop :=
  ∀ (s t : State) (i : Instr), s.AboutToTick → s.CpuReady → s.pc.toNat < 0x0FFF →
    decode [s.mem.read s.pc.toNat, s.mem.read (s.pc.toNat + 1)] = .ok (i, []) →
    exec i { s with inputs := s.inputs.tail, pc := s.pc + 2#16 } = .next t →
    step s = .next (if t.fault = none then { t with draws := t.draws + 1 } else t)

/-- R152: an UNMAPPED word faults precisely with PC left at it, or advances, or stalls, as UNMAPPED_POLICY says; the last two strobe
`draw` (the spec's choice D7, log 20). -/
def Obligations.UnmappedWordFollowsPolicy : Prop :=
  ∀ (s : State) (e : DecodeReject), s.AboutToTick → s.CpuReady → s.pc.toNat < 0x0FFF → decodeWord s.wordAtPc = .error e →
    (s.par.unmappedPolicy = .fault →
      step s = .next { s with
        inputs := s.inputs.tail
        fault := some { cause := .unmapped, pc := s.pc, info := s.wordAtPc.toNat } }) ∧
    (s.par.unmappedPolicy = .nopAdvance →
      step s = .next { s with inputs := s.inputs.tail, pc := s.pc + 2#16, draws := s.draws + 1 }) ∧
    (s.par.unmappedPolicy = .nopStall →
      step s = .next { s with inputs := s.inputs.tail, draws := s.draws + 1 })

/-- R84, R150: a tick with PC at 0x0FFF or above latches FETCH_BOUNDS with the lowest address out of range, and changes nothing else
(the spec's choice D3, log 26). -/
def Obligations.FetchOutOfBoundsFaults : Prop :=
  ∀ s : State, s.AboutToTick → s.CpuReady → 0x0FFF ≤ s.pc.toNat →
    step s = .next { s with
      inputs := s.inputs.tail
      fault := some { cause := .fetchBounds, pc := s.pc, info := if 0x1000 ≤ s.pc.toNat then s.pc.toNat else 0x1000 } }

/-- R158: a CPU tick in IDLE or PAUSED changes nothing. -/
def Obligations.CpuTickNeedsRunning : Prop :=
  ∀ s : State, s.AboutToTick → s.run ≠ .running → step s = .next { s with inputs := s.inputs.tail }

/-- R83: with DISPLAY_WAIT and INT set a CPU tick changes nothing and gives no strobe. -/
def Obligations.DisplayWaitSkipsTick : Prop :=
  ∀ s : State, s.AboutToTick → s.par.q.displayWait = true → s.int = true →
    step s = .next { s with inputs := s.inputs.tail }

/-- R151: a latched fault stops the CPU tick, and only `reset` and `load_rom` clear it (the spec's choice D32, log 7). -/
def Obligations.LatchedFaultHolds : Prop :=
  ∀ (s : State) (f : FaultRecord), s.fault = some f →
    (s.AboutToTick → step s = .next { s with inputs := s.inputs.tail }) ∧
    (∀ t, step s = .next t → s.nextEvent ≠ .reset → (∀ bs, s.nextEvent ≠ .loadRom bs) → t.fault = some f) ∧
    (s.nextEvent = .reset ∨ (∃ bs, s.nextEvent = .loadRom bs) → ∃ t, step s = .next t ∧ t.fault = none)

/-- R151: every fault of every step is precise: the state is the one before the step, PC included, but for FAULT and the event
taken off `inputs`; the record's `pc` is A. -/
def Obligations.FaultsArePrecise : Prop :=
  ∀ (s t : State) (f : FaultRecord), s.fault = none → step s = .next t → t.fault = some f →
    t = { s with inputs := s.inputs.tail, fault := some f } ∧ f.pc = s.pc

/-! ## Events -/

/-- R159, R160: a timer tick in RUNNING, and in PAUSED unless PAUSE_GATES_TIMERS, decrements DT and ST down to 0, derives SOUND_ON
from the decremented ST, and clears INT; anywhere else it changes nothing (D37, D47, log 28, 30). -/
def Obligations.TimerTickCountsDown : Prop :=
  ∀ (s : State) (rest : List Event), s.inputs = .timerTick :: rest →
    (s.run = .running ∨ (s.run = .paused ∧ s.par.pauseGatesTimers = false) →
      ∃ t, step s = .next t ∧
        t = { s with inputs := rest, dt := t.dt, st := t.st, soundOn := t.soundOn, int := false } ∧
        t.dt.toNat = s.dt.toNat - 1 ∧ t.st.toNat = s.st.toNat - 1 ∧
        (t.soundOn = true ↔ 1 < s.st.toNat ∧ s.soundEn = true)) ∧
    (s.run = .idle ∨ (s.run = .paused ∧ s.par.pauseGatesTimers = true) → step s = .next { s with inputs := rest })

/-- R41: `key_down(k)` with 0 ≤ k ≤ 15 stores the key, sets PRESSED and the latch, in every lifecycle state (D17, log 27); any other
value changes nothing. -/
def Obligations.KeyDownStoresKey : Prop :=
  ∀ (s : State) (rest : List Event) (k : Int), s.inputs = .keyDown k :: rest →
    (0 ≤ k ∧ k ≤ 15 →
      step s = .next { s with inputs := rest, key := some (BitVec.ofNat 4 k.toNat), pressed := true, kdl := true }) ∧
    (k < 0 ∨ 15 < k → step s = .next { s with inputs := rest })

/-- R42: `key_up(k)` with 0 ≤ k ≤ 15 clears PRESSED whatever KEY holds, and KEY stays; any other value changes nothing. -/
def Obligations.KeyUpClearsPressed : Prop :=
  ∀ (s : State) (rest : List Event) (k : Int), s.inputs = .keyUp k :: rest →
    (0 ≤ k ∧ k ≤ 15 → step s = .next { s with inputs := rest, pressed := false }) ∧
    (k < 0 ∨ 15 < k → step s = .next { s with inputs := rest })

/-- R168 to R170: `start`, `pause` and `resume` move RUN along the lifecycle and are ignored in any other state (D33, log 36);
`set_speed` takes any real (log 6) and is ignored unless it is above 0 (D36, log 36); `set_sound` sets SOUND_EN alone. -/
def Obligations.HostCommands : Prop :=
  ∀ (s : State) (rest : List Event) (f : HostReal) (b : Bool),
    (s.inputs = .start :: rest →
      step s = .next { s with inputs := rest, run := if s.run = .idle then .running else s.run }) ∧
    (s.inputs = .pause :: rest →
      step s = .next { s with inputs := rest, run := if s.run = .running then .paused else s.run }) ∧
    (s.inputs = .resume :: rest →
      step s = .next { s with inputs := rest, run := if s.run = .paused then .running else s.run }) ∧
    (s.inputs = .setSpeed f :: rest → 0 < f.value → step s = .next { s with inputs := rest, speed := f }) ∧
    (s.inputs = .setSpeed f :: rest → f.value ≤ 0 → step s = .next { s with inputs := rest }) ∧
    (s.inputs = .setSound b :: rest → step s = .next { s with inputs := rest, soundEn := b })

/-- R179 to R181: what `reset` sets, what it clears, and that it leaves everything else: memory below 0x200, the keypad, SPEED,
SOUND_EN, load_ok, the parameters (D14, D16, D32, D35, log 27). -/
def Obligations.ResetEvent : Prop :=
  ∀ (s : State) (rest : List Event), s.inputs = .reset :: rest →
    ∃ t, step s = .next t ∧
      t = { s with
        inputs := rest, run := .idle, pc := 0x200#16, i := 0#16, stack := [], dt := 0#8, st := 0#8, v := t.v
        res := .low, int := false, mem := t.mem, phys := t.phys, kw := false, kdl := false, soundOn := false
        fault := none } ∧
      (∀ r, t.reg r = 0#8) ∧ (∀ r c, Grid.pixel t.phys r c = false) ∧
      ∀ a, t.mem.read a = if 0x200 ≤ a then 0#8 else s.mem.read a

/-- R183, R184: `load_rom` resets, rewrites the font, and copies a ROM of at most 3584 bytes to 0x200 with `load_ok` true, or copies
nothing of a longer one with `load_ok` false (D34, log 31).  The font's bytes are general knowledge (D5, log 16). -/
def Obligations.LoadRomEvent : Prop :=
  ∀ (s : State) (rest : List Event) (bs : List Byte), s.inputs = .loadRom bs :: rest →
    ∃ t, step s = .next t ∧
      t = { s with
        inputs := rest, run := .idle, pc := 0x200#16, i := 0#16, stack := [], dt := 0#8, st := 0#8, v := t.v
        res := .low, int := false, mem := t.mem, phys := t.phys, kw := false, kdl := false, soundOn := false
        fault := none, loadOk := decide (bs.length ≤ 3584) } ∧
      (∀ r, t.reg r = 0#8) ∧ (∀ r c, Grid.pixel t.phys r c = false) ∧
      ∀ a, a < 0x1000 → t.mem.read a =
        if 0x050 ≤ a ∧ a < 0x0A0 then r60Font.getD (a - 0x050) 0#8
        else if a < 0x200 then s.mem.read a
        else if bs.length ≤ 3584 then bs.getD (a - 0x200) 0#8
        else 0#8

/-- R178, R48: every field of the machine as built, for all parameters (D30, D49, log 38), the font as R60's 80 bytes (general
knowledge, D5, log 16).  The last four fields are the model's own, and their values its choice (log 33). -/
def Obligations.PowerOnState : Prop :=
  ∀ par : Params, let s := State.construct par
    (∀ r, s.reg r = 0#8) ∧ s.i = 0#16 ∧ s.pc = 0x200#16 ∧ s.dt = 0#8 ∧ s.st = 0#8 ∧ s.stack = [] ∧ s.res = .low ∧
    (∀ r c, Grid.pixel s.phys r c = false) ∧ s.int = false ∧ s.kw = false ∧ s.kdl = false ∧ s.key = none ∧
    s.pressed = false ∧ s.run = .idle ∧ s.speed = .rational 1 ∧ s.speed.value = 1 ∧ s.soundEn = true ∧ s.soundOn = false ∧
    s.fault = none ∧ s.loadOk = false ∧ s.par = par ∧ s.rand = [] ∧ s.randUsed = 0 ∧ s.draws = 0 ∧ s.inputs = [] ∧
    ∀ a, s.mem.read a = if 0x050 ≤ a ∧ a < 0x0A0 then r60Font.getD (a - 0x050) 0#8 else 0#8

/-! ## Encoding -/

/-- R88: decoding the bytes of any well-formed instruction gives it back, with every operand. -/
def Obligations.DecodeOfEncode : Prop :=
  ∀ (i : Instr) (rest : List Byte), i.wf = true → decode (encode i ++ rest) = .ok (i, rest)

/-- R77, R78, R88, R93: what a word decodes to is well formed, has the word in its row of the opcode map, and encodes to that word, or,
where group 0x0 does not examine nibble x (D9, log 35), to the word with x cleared. -/
def Obligations.DecodedWordIsInItsRow : Prop :=
  ∀ (op : Word) (i : Instr), decodeWord op = .ok i →
    i.wf = true ∧ i.rowMatches op ∧
      (encodeWord i = op ∨ (op.extractLsb' 12 4 = 0x0#4 ∧ encodeWord i = op &&& 0xF0FF#16))

/-- R86: the words the decoder rejects are exactly the UNMAPPED words (D8, log 35), each rejected by name. -/
def Obligations.RejectedWordsAreTheUnmapped : Prop :=
  ∀ op : Word,
    let c := op.toNat / 4096
    let n := op.toNat % 16
    let kk := op.toNat % 256
    (decodeWord op = .error (.unmapped op) ∨ ∃ i, decodeWord op = .ok i) ∧
    (decodeWord op = .error (.unmapped op) ↔
      (c = 5 ∧ n ≠ 0) ∨ (c = 9 ∧ n ≠ 0) ∨ (c = 8 ∧ n ∈ [8, 9, 10, 11, 12, 13, 15]) ∨
      (c = 14 ∧ kk ∉ [0x9E, 0xA1]) ∨
      (c = 15 ∧ kk ∉ [0x07, 0x0A, 0x15, 0x18, 0x1E, 0x29, 0x33, 0x55, 0x65]))

/-- R92: words of every family, written out, decode as the spec's table of examples says.  That 01E0 is CLS is the spec's choice D9
(log 35), and which words decode to nothing its choice D8 (log 35). -/
def Obligations.ExampleWordsDecode : Prop :=
  decodeTableWord 16 0x00E0 = some .cls ∧ decodeTableWord 16 0x01E0 = some .cls ∧
  decodeTableWord 16 0x00C4 = some (.scd 4) ∧ decodeTableWord 16 0x0123 = some (.sys 0x123) ∧
  decodeTableWord 16 0x0000 = some (.sys 0) ∧ decodeTableWord 16 0x1ABC = some (.jmp 0xABC) ∧
  decodeTableWord 16 0x3A7F = some (.sei 0xA 0x7F) ∧ decodeTableWord 16 0x5120 = some (.ser 1 2) ∧
  decodeTableWord 16 0x5121 = none ∧ decodeTableWord 16 0x8AB4 = some (.addVV 0xA 0xB) ∧
  decodeTableWord 16 0x8AB8 = none ∧ decodeTableWord 16 0xB2F0 = some (.jmpOff 0x2F0) ∧
  decodeTableWord 16 0xD125 = some (.drw 1 2 5) ∧ decodeTableWord 16 0xE59E = some (.skp 5) ∧
  decodeTableWord 16 0xE5A2 = none ∧ decodeTableWord 16 0xF30A = some (.ldVKey 3) ∧
  decodeTableWord 16 0xF265 = some (.ldVM 2) ∧ decodeTableWord 16 0xF030 = none

/-! ## Rules of the whole machine -/

/-- The invariant holds of every machine as built. -/
def Obligations.InvAtPowerOn : Prop := ∀ par : Params, (State.construct par).Inv

/-- Every step keeps the invariant: memory in canonical form (and so none listed outside 0x000 to 0xFFF), SPEED above 0, PC at most
0x10FE, return addresses at most 0x1000, a bounded stack within its bound, a pressed or latched key known, a latched fault
fitting the state it holds in. -/
def Obligations.StepKeepsInv : Prop := ∀ s t : State, s.Inv → step s = .next t → t.Inv

/-- Every step of every state completes: the core "never throws", and each fault the spec names is a next state (log 7). -/
def Obligations.EveryStepCompletes : Prop := ∀ s : State, ∃ t, step s = .next t

/-- R3, R8: no step changes the profile's quirks (R3) or any other parameter (R8).  That they all stand in the one constant field `par`
is the model's choice (log 1). -/
def Obligations.ParametersNeverChange : Prop := ∀ s t : State, step s = .next t → t.par = s.par

/-- R36: only CLS, HIGH, LOW, SCR, SCL, SCD, DRW, `reset` and `load_rom` write the framebuffer: no other instruction does; and a step
that changes it handles `reset` or `load_rom`, or is a ready CPU tick whose word decodes to one of those instructions.  So neither a
timer tick does, nor a CPU tick that is skipped, that faults at its fetch or that finds an unmapped word. -/
def Obligations.FramebufferWriters : Prop :=
  (∀ (i : Instr) (s t : State), exec i s = .next t → drawsOnScreen i = false → t.phys = s.phys) ∧
  (∀ s t : State, step s = .next t → t.phys ≠ s.phys →
    s.nextEvent = .reset ∨ (∃ bs, s.nextEvent = .loadRom bs) ∨
      (s.AboutToTick ∧ s.CpuReady ∧ s.pc.toNat < 0x0FFF ∧
        ∃ i, decodeWord s.wordAtPc = .ok i ∧ drawsOnScreen i = true))

/-- R21: an instruction writes no register but those R21 lists for it. -/
def Obligations.RegistersOutsideTheTableAreKept : Prop :=
  ∀ (i : Instr) (s t : State) (r : Nibble), exec i s = .next t → destReg i s.par.q r = false → t.reg r = s.reg r

/-- R25, R26, R28, R43, R47, R52, R132, R149, R164: each other kind of state is written only by the instructions the spec names for
it, and the host's state by none. -/
def Obligations.EachKindOfStateHasItsWriters : Prop :=
  ∀ (i : Instr) (s t : State), exec i s = .next t →
    (t.stack ≠ s.stack → i = .ret ∨ ∃ nnn, i = .call nnn) ∧
    (t.dt ≠ s.dt → ∃ x, i = .ldDTV x) ∧
    (t.st ≠ s.st → ∃ x, i = .ldSTV x) ∧
    (t.res ≠ s.res → i = .high ∨ i = .low) ∧
    (t.int ≠ s.int → ∃ x y n, i = .drw x y n) ∧
    (t.kw ≠ s.kw ∨ t.kdl ≠ s.kdl → ∃ x, i = .ldVKey x) ∧
    (t.mem ≠ s.mem → ∃ x, i = .ldBV x ∨ i = .ldMV x) ∧
    (t.i ≠ s.i → (∃ nnn, i = .ldIA nnn) ∨ ∃ x, i = .addIV x ∨ i = .ldFV x ∨ i = .ldMV x ∨ i = .ldVM x) ∧
    (t.rand ≠ s.rand ∨ t.randUsed ≠ s.randUsed → ∃ x kk, i = .rnd x kk) ∧
    t.key = s.key ∧ t.pressed = s.pressed ∧ t.run = s.run ∧ t.speed = s.speed ∧ t.soundEn = s.soundEn ∧
    t.soundOn = s.soundOn ∧ t.loadOk = s.loadOk ∧ t.par = s.par ∧ t.inputs = s.inputs ∧ t.draws = s.draws

/-- R169: no step but `set_speed` depends on SPEED: two states that differ in SPEED alone go to states that differ in SPEED
alone. -/
def Obligations.SpeedHasNoInfluence : Prop :=
  ∀ (s t : State) (f : HostReal), (∀ g, s.nextEvent ≠ .setSpeed g) → step s = .next t →
    step { s with speed := f } = .next { t with speed := f }

/-- R165, R195: a SPEED `c` times as high, for any real `c` above 0, divides both nominal periods by `c` (2.0 halves them), and
their ratio is CPU_HZ : 60 whatever SPEED is (log 6, 14). -/
def Obligations.SpeedScalesBothPeriods : Prop :=
  ∀ (s : State) (f : HostReal) (c : ℝ), 0 < s.speed.value → 0 < s.par.cpuHz.value → 0 < c → f.value = c * s.speed.value →
    State.cpuPeriod { s with speed := f } = s.cpuPeriod / c ∧
    State.timerPeriod { s with speed := f } = s.timerPeriod / c ∧
    s.timerPeriod / s.cpuPeriod = s.par.cpuHz.value / 60

/-- R171: `fb_view` shows a pixel exactly when the 2 by 2 block of physical cells is lit, in both resolutions (D38, D50, log 37). -/
def Obligations.ViewIsBlockAnd : Prop :=
  ∀ (s : State) (x y : Nat), s.fbView y x = true ↔
    ∀ dr dc, dr < 2 → dc < 2 → Grid.pixel s.phys (2 * y + dr) (2 * x + dc) = true
end

