-- ==== Sys2Proof/Laws/Decode.lean ====
section
/-! SUPPORT. The fields of an assembled word, and how its bytes read back. -/

namespace Sys2Proof

/-- The low part of a concatenation. -/
theorem extract_append_low {m k : Nat} (a : BitVec m) (b : BitVec k) : (a ++ b).extractLsb' 0 k = b := by
  ext i hi
  simp [BitVec.getLsbD_append, hi]

/-- Bits above the low part of a concatenation. -/
theorem extract_append_high {m k : Nat} (a : BitVec m) (b : BitVec k) (s len : Nat) :
    (a ++ b).extractLsb' (s + k) len = a.extractLsb' s len := by
  ext i hi
  simp [BitVec.getLsbD_append, show ¬ s + k + i < k by omega, show s + k + i - k = s + i by omega]

/-- All the bits. -/
theorem extract_all {m : Nat} (a : BitVec m) : a.extractLsb' 0 m = a := by
  ext i hi
  simp

section fields
variable (c x y n : Nibble) (kk : Byte) (nnn : Addr12)

@[simp] theorem fieldC_asmXYN : fieldC (asmXYN c x y n) = c := by
  show BitVec.extractLsb' (0 + 4 + 4 + 4) 4 (((c ++ x) ++ y) ++ n) = c
  rw [extract_append_high, extract_append_high, extract_append_high, extract_all]

@[simp] theorem fieldX_asmXYN : fieldX (asmXYN c x y n) = x := by
  show BitVec.extractLsb' (0 + 4 + 4) 4 (((c ++ x) ++ y) ++ n) = x
  rw [extract_append_high, extract_append_high, extract_append_low]

@[simp] theorem fieldY_asmXYN : fieldY (asmXYN c x y n) = y := by
  show BitVec.extractLsb' (0 + 4) 4 (((c ++ x) ++ y) ++ n) = y
  rw [extract_append_high, extract_append_low]

@[simp] theorem fieldN_asmXYN : fieldN (asmXYN c x y n) = n := by
  show BitVec.extractLsb' 0 4 (((c ++ x) ++ y) ++ n) = n
  rw [extract_append_low]

@[simp] theorem fieldC_asmXKK : fieldC (asmXKK c x kk) = c := by
  show BitVec.extractLsb' (0 + 4 + 8) 4 ((c ++ x) ++ kk) = c
  rw [extract_append_high, extract_append_high, extract_all]

@[simp] theorem fieldX_asmXKK : fieldX (asmXKK c x kk) = x := by
  show BitVec.extractLsb' (0 + 8) 4 ((c ++ x) ++ kk) = x
  rw [extract_append_high, extract_append_low]

@[simp] theorem fieldKK_asmXKK : fieldKK (asmXKK c x kk) = kk := by
  show BitVec.extractLsb' 0 8 ((c ++ x) ++ kk) = kk
  rw [extract_append_low]

@[simp] theorem fieldC_asmNNN : fieldC (asmNNN c nnn) = c := by
  show BitVec.extractLsb' (0 + 12) 4 (c ++ nnn) = c
  rw [extract_append_high, extract_all]

@[simp] theorem fieldNNN_asmNNN : fieldNNN (asmNNN c nnn) = nnn := by
  show BitVec.extractLsb' 0 12 (c ++ nnn) = nnn
  rw [extract_append_low]

end fields

/-- The two bytes of a word, put together again, are the word (20_memory.md R54). -/
theorem wordOfBytes_bytes (op : Word) : wordOfBytes (op.extractLsb' 8 8) (op.extractLsb' 0 8) = op := by
  show (op.extractLsb' 8 8 ++ op.extractLsb' 0 8 : BitVec (8 + 8)) = op
  ext i hi
  rw [BitVec.getElem_append]
  by_cases h : i < 8
  · simpa [h] using BitVec.getLsbD_eq_getElem (x := op) hi
  · simpa [h, show 8 + (i - 8) = i by omega] using BitVec.getLsbD_eq_getElem (x := op) hi

/-- Decoding a word's bytes is decoding the word. -/
theorem decode_bytesOfWord (op : Word) (rest : List Byte) :
    decode (bytesOfWord op ++ rest) = (decodeWord op).map fun i => (i, rest) := by
  simp only [bytesOfWord, List.cons_append, List.nil_append, decode, wordOfBytes_bytes]
  cases decodeWord op <;> rfl

/-- A word is rejected under its own value (R86). -/
theorem decodeWord_error {op : Word} {e : DecodeReject} (h : decodeWord op = .error e) : e = .unmapped op := by
  unfold decodeWord decodeGroup8 decodeGroupE decodeGroupF at h
  (repeat' split at h) <;> first | (cases h; rfl) | cases h

/-! ## Masks -/

theorem and_asmXYN (c x y n a b d e : Nibble) :
    asmXYN c x y n &&& asmXYN a b d e = asmXYN (c &&& a) (x &&& b) (y &&& d) (n &&& e) := by
  show ((((c ++ x) ++ y) ++ n) &&& (((a ++ b) ++ d) ++ e)) = ((((c &&& a) ++ (x &&& b)) ++ (y &&& d)) ++ (n &&& e))
  rw [BitVec.and_append, BitVec.and_append, BitVec.and_append]

theorem and_asmXKK (c x a b : Nibble) (kk d : Byte) :
    asmXKK c x kk &&& asmXKK a b d = asmXKK (c &&& a) (x &&& b) (kk &&& d) := by
  show (((c ++ x) ++ kk) &&& ((a ++ b) ++ d)) = (((c &&& a) ++ (x &&& b)) ++ (kk &&& d))
  rw [BitVec.and_append, BitVec.and_append]

theorem and_asmNNN (c a : Nibble) (k d : Addr12) : asmNNN c k &&& asmNNN a d = asmNNN (c &&& a) (k &&& d) := by
  show ((c ++ k) &&& (a ++ d)) = ((c &&& a) ++ (k &&& d))
  rw [BitVec.and_append]

/-! ## Fields under a mask -/

theorem fieldC_and (a b : Word) : fieldC (a &&& b) = fieldC a &&& fieldC b := BitVec.extractLsb'_and
theorem fieldX_and (a b : Word) : fieldX (a &&& b) = fieldX a &&& fieldX b := BitVec.extractLsb'_and
theorem fieldY_and (a b : Word) : fieldY (a &&& b) = fieldY a &&& fieldY b := BitVec.extractLsb'_and
theorem fieldN_and (a b : Word) : fieldN (a &&& b) = fieldN a &&& fieldN b := BitVec.extractLsb'_and
theorem fieldKK_and (a b : Word) : fieldKK (a &&& b) = fieldKK a &&& fieldKK b := BitVec.extractLsb'_and

/-- The leading nibble of a word in a row of the map whose mask keeps it. -/
theorem fieldC_of_mask {op mask pattern : Word} (h : op &&& mask = pattern) (hm : fieldC mask = 0xF#4) :
    fieldC op = fieldC pattern := by
  rw [← h, fieldC_and, hm, show (0xF#4 : Nibble) = BitVec.allOnes 4 from rfl, BitVec.and_allOnes]

/-- The last nibble, likewise. -/
theorem fieldN_of_mask {op mask pattern : Word} (h : op &&& mask = pattern) (hm : fieldN mask = 0xF#4) :
    fieldN op = fieldN pattern := by
  rw [← h, fieldN_and, hm, show (0xF#4 : Nibble) = BitVec.allOnes 4 from rfl, BitVec.and_allOnes]

/-- The low byte, likewise. -/
theorem fieldKK_of_mask {op mask pattern : Word} (h : op &&& mask = pattern) (hm : fieldKK mask = 0xFF#8) :
    fieldKK op = fieldKK pattern := by
  rw [← h, fieldKK_and, hm, show (0xFF#8 : Byte) = BitVec.allOnes 8 from rfl, BitVec.and_allOnes]

/-! ## A word is made of its fields -/

theorem asmNNN_fields (op : Word) : asmNNN (fieldC op) (fieldNNN op) = op := by
  show (op.extractLsb' 12 4 ++ op.extractLsb' 0 12 : BitVec (4 + 12)) = op
  ext i hi
  rw [BitVec.getElem_append]
  by_cases h : i < 12
  · simpa [h] using BitVec.getLsbD_eq_getElem (x := op) hi
  · simpa [h, show 12 + (i - 12) = i by omega] using BitVec.getLsbD_eq_getElem (x := op) hi

theorem fieldXKK_append (op : Word) : fieldX op ++ fieldKK op = fieldNNN op := by
  show (op.extractLsb' 8 4 ++ op.extractLsb' 0 8 : BitVec (4 + 8)) = op.extractLsb' 0 12
  ext i hi
  rw [BitVec.getElem_append]
  have hi' : i < 12 := hi
  by_cases h : i < 8
  · simp [h]
  · simp [h, show 8 + (i - 8) = i by omega]

theorem fieldYN_append (op : Word) : fieldY op ++ fieldN op = fieldKK op := by
  show (op.extractLsb' 4 4 ++ op.extractLsb' 0 4 : BitVec (4 + 4)) = op.extractLsb' 0 8
  ext i hi
  rw [BitVec.getElem_append]
  by_cases h : i < 4
  · simp [h]
  · simp [h, show 4 + (i - 4) = i by omega]

theorem asmXKK_fields (op : Word) : asmXKK (fieldC op) (fieldX op) (fieldKK op) = op := by
  show (fieldC op ++ fieldX op ++ fieldKK op : BitVec (4 + 4 + 8)) = op
  have h := BitVec.append_assoc (x₁ := fieldC op) (x₂ := fieldX op) (x₃ := fieldKK op)
  rw [h, fieldXKK_append]
  exact asmNNN_fields op

theorem asmXYN_fields (op : Word) : asmXYN (fieldC op) (fieldX op) (fieldY op) (fieldN op) = op := by
  show (fieldC op ++ fieldX op ++ fieldY op ++ fieldN op : BitVec (4 + 4 + 4 + 4)) = op
  have h := BitVec.append_assoc (x₁ := fieldC op ++ fieldX op) (x₂ := fieldY op) (x₃ := fieldN op)
  rw [h, fieldYN_append]
  exact asmXKK_fields op

end Sys2Proof
end

