-- ==== Sys2Proof/Laws/Framebuffer.lean ====
section
/-! SUPPORT. What one cell of the framebuffer holds after each framebuffer operation. -/

namespace Sys2Proof.Machine

/-- A row has no column from 128 on. -/
theorem getMsbD_of_ge {row : PixelRow} {c : Nat} (h : 128 ≤ c) : row.getMsbD c = false := by
  simp [BitVec.getMsbD_eq_getLsbD, Nat.not_lt.mpr h]

/-- The mask of a column is lit there only. -/
theorem getMsbD_columnMask {c : Nat} (hc : c < 128) (c' : Nat) : (columnMask c).getMsbD c' = decide (c' = c) := by
  unfold columnMask
  by_cases h : c' < 128
  · rw [BitVec.getMsbD_eq_getLsbD, BitVec.getLsbD_twoPow, Bool.eq_iff_iff]
    simp only [h, decide_true, Bool.true_and, Bool.and_eq_true, decide_eq_true_eq]
    omega
  · have : (BitVec.twoPow 128 (127 - c)).getMsbD c' = false := by simp [BitVec.getMsbD_eq_getLsbD, h]
    rw [this]; symm; simp; omega

/-- A row after one column is set. -/
theorem getMsbD_setColumn (row : PixelRow) {c : Nat} (hc : c < 128) (b : Bool) (c' : Nat) :
    (setColumn row c b).getMsbD c' = if c' = c then b else row.getMsbD c' := by
  unfold setColumn
  have range : row.getMsbD c' = true → c' < 128 := by
    intro h
    by_contra hn
    simp [BitVec.getMsbD_eq_getLsbD, hn] at h
  cases b <;> by_cases e : c' = c <;> simp [hc, getMsbD_columnMask hc, e]
  exact range

/-- Outside the grid there is no lit cell. -/
theorem Grid.pixel_of_col_ge (g : Grid) (r : Nat) {c : Nat} (h : 128 ≤ c) : Grid.pixel g r c = false := by
  unfold Grid.pixel
  split
  · simp [BitVec.getMsbD_eq_getLsbD, Nat.not_lt.mpr h]
  · rfl

@[simp] theorem Grid.pixel_blank (r c : Nat) : Grid.pixel Grid.blank r c = false := by
  unfold Grid.pixel Grid.blank
  split
  · simp
  · rfl

/-- One cell after one cell is set. -/
theorem Grid.pixel_setPixel (g : Grid) {r c : Nat} (hr : r < 64) (hc : c < 128) (b : Bool) (r' c' : Nat) :
    Grid.pixel (Grid.setPixel g r c b) r' c' = if r' = r ∧ c' = c then b else Grid.pixel g r' c' := by
  unfold Grid.pixel Grid.setPixel
  rw [dif_pos hr]
  by_cases h' : r' < 64
  · rw [dif_pos h', dif_pos h']
    by_cases e : r' = r
    · subst e; simp [getMsbD_setColumn _ hc]
    · simp [e, Ne.symm e]
  · rw [dif_neg h', dif_neg h', if_neg (by omega)]

/-- A cell after SCR's move (R99). -/
theorem Grid.pixel_scrollRight (g : Grid) (s r : Nat) {c : Nat} (hc : c < 128) :
    Grid.pixel (scrollRight g s) r c = if s ≤ c then Grid.pixel g r (c - s) else false := by
  unfold Grid.pixel scrollRight
  by_cases h : r < 64
  · rw [dif_pos h, dif_pos h]
    by_cases hs : s ≤ c <;> simp [BitVec.getMsbD_ushiftRight, hs, hc]
  · simp [h]

/-- A cell after SCL's move (R100). -/
theorem Grid.pixel_scrollLeft (g : Grid) (s r c : Nat) :
    Grid.pixel (scrollLeft g s) r c = if c + s < 128 then Grid.pixel g r (c + s) else false := by
  unfold Grid.pixel scrollLeft
  by_cases h : r < 64
  · rw [dif_pos h, dif_pos h]
    simp only [Fin.getElem_fin, Vector.getElem_ofFn, BitVec.getMsbD_shiftLeft]
    by_cases hs : c + s < 128
    · simp [hs]
    · simp [hs, getMsbD_of_ge (Nat.not_lt.mp hs)]
  · simp [h]

/-- A cell after SCD's move (R101). -/
theorem Grid.pixel_scrollDown (g : Grid) (s : Nat) {r : Nat} (hr : r < 64) (c : Nat) :
    Grid.pixel (scrollDown g s) r c = if s ≤ r then Grid.pixel g (r - s) c else false := by
  unfold Grid.pixel scrollDown
  rw [dif_pos hr, dif_pos (show r - s < 64 by omega)]
  by_cases hs : s ≤ r <;> simp [hs]

/-! ## Logical pixels (R30, R31) -/

theorem Resolution.width_pos (res : Resolution) : 0 < res.width := by cases res <;> decide

theorem Resolution.height_pos (res : Resolution) : 0 < res.height := by cases res <;> decide

/-- A logical pixel after one logical pixel is set: it reads as set, every other as before (R33, R34). -/
theorem fbGet_fbSet (g : Grid) (res : Resolution) {x y x' y' : Nat} (hx : x < res.width) (hy : y < res.height) (b : Bool) :
    fbGet (fbSet g x y b res) x' y' res = if x' = x ∧ y' = y then b else fbGet g x' y' res := by
  cases res with
  | high =>
    simp only [Resolution.width, Resolution.height] at hx hy
    simp [fbGet, fbSet, Grid.pixel_setPixel g hy hx, and_comm]
  | low =>
    simp only [Resolution.width, Resolution.height] at hx hy
    have r0 : 2 * y < 64 := by omega
    have r1 : 2 * y + 1 < 64 := by omega
    have c0 : 2 * x < 128 := by omega
    have c1 : 2 * x + 1 < 128 := by omega
    simp only [fbGet, fbSet, Grid.pixel_setPixel _ r1 c1, Grid.pixel_setPixel _ r1 c0, Grid.pixel_setPixel _ r0 c1,
      Grid.pixel_setPixel _ r0 c0]
    have e1 : ∀ p q : Nat, ¬ 2 * p = 2 * q + 1 := by intros; omega
    have e2 : ∀ p q : Nat, ¬ 2 * p + 1 = 2 * q := by intros; omega
    by_cases e : x' = x ∧ y' = y
    · obtain ⟨rfl, rfl⟩ := e; simp
    · by_cases ex : x' = x <;> by_cases ey : y' = y <;> simp_all

end Sys2Proof.Machine
end

