-- ==== Sys2Proof/Laws/Memory.lean ====
section
/-! SUPPORT. What memory operations do: reading after writing, and that each keeps the canonical form. -/

namespace Sys2Proof.Machine

/-- From 0xA0 on an unlisted address reads 0. -/
theorem Memory.unlisted_of_ge {a : Nat} (h : 0xA0 ≤ a) : Memory.unlisted a = 0#8 := by
  unfold Memory.unlisted fontBase fontBytes
  rw [if_neg (by omega)]

/-- An address no cell names reads as unlisted. -/
theorem Memory.read_of_not_listed {m : Memory} {a : Nat} (h : ∀ cell ∈ m, cell.1 ≠ a) : m.read a = Memory.unlisted a := by
  induction m with
  | nil => rfl
  | cons cell rest ih =>
    obtain ⟨b, w⟩ := cell
    have hb : b ≠ a := h (b, w) (by simp)
    simp only [Memory.read, hb, if_false]
    exact ih fun c hc => h c (by simp [hc])

/-- Dropping cells by their address leaves every address kept as it was, and makes the dropped ones unlisted. -/
theorem Memory.read_filter (m : Memory) (keep : Nat → Bool) (a : Nat) :
    Memory.read (m.filter fun cell => keep cell.1) a = if keep a then m.read a else Memory.unlisted a := by
  induction m with
  | nil => simp [Memory.read]
  | cons cell rest ih =>
    obtain ⟨b, w⟩ := cell
    by_cases hk : keep b
    · by_cases hb : b = a
      · subst hb; simp [hk, Memory.read]
      · simp [hk, Memory.read, hb, ih]
    · by_cases hb : b = a
      · subst hb; simpa [hk] using ih
      · simp [hk, Memory.read, hb, ih]

/-- A listed byte reads back, in a list that named no such address before. -/
theorem Memory.read_insert {m : Memory} {a : Nat} (v : Byte) (h : ∀ cell ∈ m, cell.1 ≠ a) (a' : Nat) :
    (Memory.insert m a v).read a' = if a' = a then v else m.read a' := by
  induction m with
  | nil => simp only [Memory.insert, Memory.read, eq_comm (a := a)]
  | cons cell rest ih =>
    obtain ⟨b, w⟩ := cell
    have hb : b ≠ a := h (b, w) (by simp)
    have ih := ih fun c hc => h c (by simp [hc])
    by_cases hlt : a < b
    · simp only [Memory.insert, hlt, if_true, Memory.read, eq_comm (a := a)]
    · simp only [Memory.insert, hlt, if_false, Memory.read, ih]
      by_cases e : b = a'
      · subst e; simp [hb]
      · simp [e]

/-- Read after write: the address written holds the byte, every other is as before. -/
theorem Memory.read_write (m : Memory) {a : Nat} (ha : a < memSize) (v : Byte) (a' : Nat) :
    (m.write a v).read a' = if a' = a then v else m.read a' := by
  have others : ∀ cell ∈ m.filter (fun cell => cell.1 != a), cell.1 ≠ a := by
    intro cell hc
    simpa using (List.mem_filter.mp hc).2
  have kept := Memory.read_filter m (fun b => b != a) a'
  unfold Memory.write
  simp only [ha, if_true]
  split
  · next hv =>
    rw [kept]
    by_cases e : a' = a <;> simp [e, hv]
  · rw [Memory.read_insert v others, kept]
    by_cases e : a' = a <;> simp [e]

/-- Read after a run of bytes is written: inside the run its byte, outside as before. -/
theorem Memory.read_writeBytes (m : Memory) (base : Nat) (bs : List Byte) (h : base + bs.length ≤ memSize) (a : Nat) :
    (m.writeBytes base bs).read a = if base ≤ a ∧ a < base + bs.length then bs.getD (a - base) 0#8 else m.read a := by
  induction bs generalizing m base with
  | nil => simp [Memory.writeBytes]
  | cons b rest ih =>
    simp only [List.length_cons] at h ⊢
    have hb : base < memSize := by omega
    rw [Memory.writeBytes, ih _ _ (by omega), Memory.read_write m hb]
    by_cases e : a = base
    · subst e; simp
    · by_cases inside : base + 1 ≤ a ∧ a < base + 1 + rest.length
      · rw [if_pos inside, if_pos (by omega)]
        obtain ⟨k, rfl⟩ : ∃ k, a = base + 1 + k := ⟨a - (base + 1), by omega⟩
        have : base + 1 + k - base = k + 1 := by omega
        simp [this]
      · rw [if_neg inside, if_neg e, if_neg (by omega)]

/-- Outside the run every byte is as before. -/
theorem Memory.read_writeBytes_outside (m : Memory) {base a : Nat} (bs : List Byte) (h : base + bs.length ≤ memSize)
    (out : a < base ∨ base + bs.length ≤ a) : (m.writeBytes base bs).read a = m.read a := by
  rw [Memory.read_writeBytes m base bs h, if_neg (by omega)]

/-- After the clear: 0 from 0x200 on, and every byte below as before (R62). -/
theorem Memory.read_clear (m : Memory) (a : Nat) : m.clear.read a = if progBase ≤ a then 0#8 else m.read a := by
  have kept := Memory.read_filter m (fun b => decide (b < progBase)) a
  unfold Memory.clear
  rw [kept]
  by_cases h : progBase ≤ a
  · have hz : Memory.unlisted a = 0#8 := Memory.unlisted_of_ge (by unfold progBase at h; omega)
    simp [h, hz]
  · simp [h, show a < progBase by omega]

/-! ## The canonical form is kept -/

theorem Memory.wf_nil : Memory.wf [] := by simp [Memory.wf]

theorem Memory.wf_filter {m : Memory} (h : m.wf) (p : Host.Cell → Bool) : Memory.wf (m.filter p) :=
  ⟨h.1.filter p, fun cell hc => h.2 cell (List.mem_filter.mp hc).1⟩

theorem Memory.mem_insert {m : Memory} {a : Nat} {v : Byte} {cell : Host.Cell} :
    cell ∈ Memory.insert m a v ↔ cell = (a, v) ∨ cell ∈ m := by
  induction m with
  | nil => simp [Memory.insert]
  | cons c rest ih =>
    obtain ⟨b, w⟩ := c
    by_cases hlt : a < b
    · simp [Memory.insert, hlt]
    · simp [Memory.insert, hlt, ih, or_left_comm]

theorem Memory.wf_insert {m : Memory} {a : Nat} {v : Byte} (h : m.wf) (ha : a < memSize) (hv : v ≠ Memory.unlisted a)
    (fresh : ∀ cell ∈ m, cell.1 ≠ a) : Memory.wf (Memory.insert m a v) := by
  refine ⟨?_, fun cell hc => ?_⟩
  · have sorted := h.1
    clear h
    induction m with
    | nil => simp [Memory.insert]
    | cons c rest ih =>
      obtain ⟨b, w⟩ := c
      have hb : b ≠ a := fresh (b, w) (by simp)
      obtain ⟨first, tail⟩ := List.pairwise_cons.mp sorted
      by_cases hlt : a < b
      · simp only [Memory.insert, hlt, if_true]
        refine List.pairwise_cons.mpr ⟨fun c hc => ?_, sorted⟩
        rcases List.mem_cons.mp hc with rfl | hc
        · exact hlt
        · exact lt_trans hlt (first c hc)
      · simp only [Memory.insert, hlt, if_false]
        refine List.pairwise_cons.mpr ⟨fun c hc => ?_, ih (fun c hc => fresh c (by simp [hc])) tail⟩
        rcases Memory.mem_insert.mp hc with rfl | hc
        · show b < a; omega
        · exact first c hc
  · rcases Memory.mem_insert.mp hc with rfl | hc
    · exact ⟨ha, hv⟩
    · exact h.2 cell hc

/-- Writing one byte keeps the canonical form. -/
theorem Memory.wf_write {m : Memory} (h : m.wf) (a : Nat) (v : Byte) : (m.write a v).wf := by
  unfold Memory.write
  split
  · next ha =>
    simp only
    split
    · exact Memory.wf_filter h _
    · next hv =>
      refine Memory.wf_insert (Memory.wf_filter h _) ha hv fun cell hc => ?_
      simpa using (List.mem_filter.mp hc).2
  · exact h

/-- Writing a run of bytes keeps the canonical form. -/
theorem Memory.wf_writeBytes {m : Memory} (h : m.wf) (base : Nat) (bs : List Byte) : (m.writeBytes base bs).wf := by
  induction bs generalizing m base with
  | nil => exact h
  | cons b rest ih => exact ih (Memory.wf_write h base b) (base + 1)

/-- The clear keeps the canonical form. -/
theorem Memory.wf_clear {m : Memory} (h : m.wf) : m.clear.wf := Memory.wf_filter h _

/-- Memory right after power-on is in canonical form. -/
theorem State.reset_mem_wf : State.reset.mem.wf := Memory.wf_nil

/-! ## The range check -/

/-- The check finds no address exactly when the whole range exists, or is empty (R57). -/
theorem firstOutOfRange_eq_none (base len : Nat) : firstOutOfRange base len = none ↔ len = 0 ∨ base + len ≤ memSize := by
  simp only [firstOutOfRange, List.find?_eq_none, List.mem_range'_1, decide_eq_true_eq, not_le]
  constructor
  · intro h
    by_cases hl : len = 0
    · exact .inl hl
    · have := h (base + len - 1) (by omega); omega
  · rintro (rfl | h) a ha <;> omega

/-- The address it finds is the lowest of the range that does not exist (R150). -/
theorem firstOutOfRange_eq_some (base len a : Nat) :
    firstOutOfRange base len = some a ↔ base ≤ a ∧ a < base + len ∧ memSize ≤ a ∧ (a = base ∨ a = memSize) := by
  induction len generalizing base with
  | zero => simp [firstOutOfRange]; omega
  | succ n ih =>
    have := ih (base + 1)
    simp only [firstOutOfRange, List.range'_succ, List.find?_cons] at this ⊢
    by_cases hb : memSize ≤ base
    · simp [hb]; omega
    · simp only [hb, decide_false, this]; omega

end Sys2Proof.Machine
end

