-- ==== Sys2Proof/Laws/State.lean ====
section
/-! SUPPORT. One lemma per field per update of State, true by rfl: no later proof unfolds a record update.  The operations that
are one of these under another name rewrite to it. -/

namespace Sys2Proof.Machine.State

/-! ## Operations that are an update under another name -/

@[simp] theorem setVF_eq_setV (s : State) (b : Byte) : s.setVF b = s.setV 0xF b := rfl
@[simp] theorem skip_eq_setPc (s : State) : s.skip = s.setPc (s.pc + 2#16) := rfl
@[simp] theorem stall_eq_setPc (s : State) : s.stall = s.setPc (s.pc - 2#16) := rfl
@[simp] theorem raise_eq_latchFault (s : State) (c : Cause) (n : Nat) : s.raise c n = s.latchFault c (s.pc - 2#16) n := rfl

/-! ## setV -/

@[simp] theorem setV_v (s : State) (x : Nibble) (b : Byte) : (s.setV x b).v = s.v.set x.toNat b x.isLt := rfl
@[simp] theorem setV_i (s : State) (x : Nibble) (b : Byte) : (s.setV x b).i = s.i := rfl
@[simp] theorem setV_pc (s : State) (x : Nibble) (b : Byte) : (s.setV x b).pc = s.pc := rfl
@[simp] theorem setV_dt (s : State) (x : Nibble) (b : Byte) : (s.setV x b).dt = s.dt := rfl
@[simp] theorem setV_st (s : State) (x : Nibble) (b : Byte) : (s.setV x b).st = s.st := rfl
@[simp] theorem setV_stack (s : State) (x : Nibble) (b : Byte) : (s.setV x b).stack = s.stack := rfl
@[simp] theorem setV_res (s : State) (x : Nibble) (b : Byte) : (s.setV x b).res = s.res := rfl
@[simp] theorem setV_phys (s : State) (x : Nibble) (b : Byte) : (s.setV x b).phys = s.phys := rfl
@[simp] theorem setV_int (s : State) (x : Nibble) (b : Byte) : (s.setV x b).int = s.int := rfl
@[simp] theorem setV_kw (s : State) (x : Nibble) (b : Byte) : (s.setV x b).kw = s.kw := rfl
@[simp] theorem setV_kdl (s : State) (x : Nibble) (b : Byte) : (s.setV x b).kdl = s.kdl := rfl
@[simp] theorem setV_key (s : State) (x : Nibble) (b : Byte) : (s.setV x b).key = s.key := rfl
@[simp] theorem setV_pressed (s : State) (x : Nibble) (b : Byte) : (s.setV x b).pressed = s.pressed := rfl
@[simp] theorem setV_run (s : State) (x : Nibble) (b : Byte) : (s.setV x b).run = s.run := rfl
@[simp] theorem setV_speed (s : State) (x : Nibble) (b : Byte) : (s.setV x b).speed = s.speed := rfl
@[simp] theorem setV_soundEn (s : State) (x : Nibble) (b : Byte) : (s.setV x b).soundEn = s.soundEn := rfl
@[simp] theorem setV_soundOn (s : State) (x : Nibble) (b : Byte) : (s.setV x b).soundOn = s.soundOn := rfl
@[simp] theorem setV_fault (s : State) (x : Nibble) (b : Byte) : (s.setV x b).fault = s.fault := rfl
@[simp] theorem setV_loadOk (s : State) (x : Nibble) (b : Byte) : (s.setV x b).loadOk = s.loadOk := rfl
@[simp] theorem setV_mem (s : State) (x : Nibble) (b : Byte) : (s.setV x b).mem = s.mem := rfl
@[simp] theorem setV_par (s : State) (x : Nibble) (b : Byte) : (s.setV x b).par = s.par := rfl
@[simp] theorem setV_rand (s : State) (x : Nibble) (b : Byte) : (s.setV x b).rand = s.rand := rfl
@[simp] theorem setV_randUsed (s : State) (x : Nibble) (b : Byte) : (s.setV x b).randUsed = s.randUsed := rfl
@[simp] theorem setV_draws (s : State) (x : Nibble) (b : Byte) : (s.setV x b).draws = s.draws := rfl
@[simp] theorem setV_inputs (s : State) (x : Nibble) (b : Byte) : (s.setV x b).inputs = s.inputs := rfl

/-! ## setI -/

@[simp] theorem setI_v (s : State) (a : Word) : (s.setI a).v = s.v := rfl
@[simp] theorem setI_i (s : State) (a : Word) : (s.setI a).i = a := rfl
@[simp] theorem setI_pc (s : State) (a : Word) : (s.setI a).pc = s.pc := rfl
@[simp] theorem setI_dt (s : State) (a : Word) : (s.setI a).dt = s.dt := rfl
@[simp] theorem setI_st (s : State) (a : Word) : (s.setI a).st = s.st := rfl
@[simp] theorem setI_stack (s : State) (a : Word) : (s.setI a).stack = s.stack := rfl
@[simp] theorem setI_res (s : State) (a : Word) : (s.setI a).res = s.res := rfl
@[simp] theorem setI_phys (s : State) (a : Word) : (s.setI a).phys = s.phys := rfl
@[simp] theorem setI_int (s : State) (a : Word) : (s.setI a).int = s.int := rfl
@[simp] theorem setI_kw (s : State) (a : Word) : (s.setI a).kw = s.kw := rfl
@[simp] theorem setI_kdl (s : State) (a : Word) : (s.setI a).kdl = s.kdl := rfl
@[simp] theorem setI_key (s : State) (a : Word) : (s.setI a).key = s.key := rfl
@[simp] theorem setI_pressed (s : State) (a : Word) : (s.setI a).pressed = s.pressed := rfl
@[simp] theorem setI_run (s : State) (a : Word) : (s.setI a).run = s.run := rfl
@[simp] theorem setI_speed (s : State) (a : Word) : (s.setI a).speed = s.speed := rfl
@[simp] theorem setI_soundEn (s : State) (a : Word) : (s.setI a).soundEn = s.soundEn := rfl
@[simp] theorem setI_soundOn (s : State) (a : Word) : (s.setI a).soundOn = s.soundOn := rfl
@[simp] theorem setI_fault (s : State) (a : Word) : (s.setI a).fault = s.fault := rfl
@[simp] theorem setI_loadOk (s : State) (a : Word) : (s.setI a).loadOk = s.loadOk := rfl
@[simp] theorem setI_mem (s : State) (a : Word) : (s.setI a).mem = s.mem := rfl
@[simp] theorem setI_par (s : State) (a : Word) : (s.setI a).par = s.par := rfl
@[simp] theorem setI_rand (s : State) (a : Word) : (s.setI a).rand = s.rand := rfl
@[simp] theorem setI_randUsed (s : State) (a : Word) : (s.setI a).randUsed = s.randUsed := rfl
@[simp] theorem setI_draws (s : State) (a : Word) : (s.setI a).draws = s.draws := rfl
@[simp] theorem setI_inputs (s : State) (a : Word) : (s.setI a).inputs = s.inputs := rfl

/-! ## setPc -/

@[simp] theorem setPc_v (s : State) (a : Word) : (s.setPc a).v = s.v := rfl
@[simp] theorem setPc_i (s : State) (a : Word) : (s.setPc a).i = s.i := rfl
@[simp] theorem setPc_pc (s : State) (a : Word) : (s.setPc a).pc = a := rfl
@[simp] theorem setPc_dt (s : State) (a : Word) : (s.setPc a).dt = s.dt := rfl
@[simp] theorem setPc_st (s : State) (a : Word) : (s.setPc a).st = s.st := rfl
@[simp] theorem setPc_stack (s : State) (a : Word) : (s.setPc a).stack = s.stack := rfl
@[simp] theorem setPc_res (s : State) (a : Word) : (s.setPc a).res = s.res := rfl
@[simp] theorem setPc_phys (s : State) (a : Word) : (s.setPc a).phys = s.phys := rfl
@[simp] theorem setPc_int (s : State) (a : Word) : (s.setPc a).int = s.int := rfl
@[simp] theorem setPc_kw (s : State) (a : Word) : (s.setPc a).kw = s.kw := rfl
@[simp] theorem setPc_kdl (s : State) (a : Word) : (s.setPc a).kdl = s.kdl := rfl
@[simp] theorem setPc_key (s : State) (a : Word) : (s.setPc a).key = s.key := rfl
@[simp] theorem setPc_pressed (s : State) (a : Word) : (s.setPc a).pressed = s.pressed := rfl
@[simp] theorem setPc_run (s : State) (a : Word) : (s.setPc a).run = s.run := rfl
@[simp] theorem setPc_speed (s : State) (a : Word) : (s.setPc a).speed = s.speed := rfl
@[simp] theorem setPc_soundEn (s : State) (a : Word) : (s.setPc a).soundEn = s.soundEn := rfl
@[simp] theorem setPc_soundOn (s : State) (a : Word) : (s.setPc a).soundOn = s.soundOn := rfl
@[simp] theorem setPc_fault (s : State) (a : Word) : (s.setPc a).fault = s.fault := rfl
@[simp] theorem setPc_loadOk (s : State) (a : Word) : (s.setPc a).loadOk = s.loadOk := rfl
@[simp] theorem setPc_mem (s : State) (a : Word) : (s.setPc a).mem = s.mem := rfl
@[simp] theorem setPc_par (s : State) (a : Word) : (s.setPc a).par = s.par := rfl
@[simp] theorem setPc_rand (s : State) (a : Word) : (s.setPc a).rand = s.rand := rfl
@[simp] theorem setPc_randUsed (s : State) (a : Word) : (s.setPc a).randUsed = s.randUsed := rfl
@[simp] theorem setPc_draws (s : State) (a : Word) : (s.setPc a).draws = s.draws := rfl
@[simp] theorem setPc_inputs (s : State) (a : Word) : (s.setPc a).inputs = s.inputs := rfl

/-! ## setDt -/

@[simp] theorem setDt_v (s : State) (b : Byte) : (s.setDt b).v = s.v := rfl
@[simp] theorem setDt_i (s : State) (b : Byte) : (s.setDt b).i = s.i := rfl
@[simp] theorem setDt_pc (s : State) (b : Byte) : (s.setDt b).pc = s.pc := rfl
@[simp] theorem setDt_dt (s : State) (b : Byte) : (s.setDt b).dt = b := rfl
@[simp] theorem setDt_st (s : State) (b : Byte) : (s.setDt b).st = s.st := rfl
@[simp] theorem setDt_stack (s : State) (b : Byte) : (s.setDt b).stack = s.stack := rfl
@[simp] theorem setDt_res (s : State) (b : Byte) : (s.setDt b).res = s.res := rfl
@[simp] theorem setDt_phys (s : State) (b : Byte) : (s.setDt b).phys = s.phys := rfl
@[simp] theorem setDt_int (s : State) (b : Byte) : (s.setDt b).int = s.int := rfl
@[simp] theorem setDt_kw (s : State) (b : Byte) : (s.setDt b).kw = s.kw := rfl
@[simp] theorem setDt_kdl (s : State) (b : Byte) : (s.setDt b).kdl = s.kdl := rfl
@[simp] theorem setDt_key (s : State) (b : Byte) : (s.setDt b).key = s.key := rfl
@[simp] theorem setDt_pressed (s : State) (b : Byte) : (s.setDt b).pressed = s.pressed := rfl
@[simp] theorem setDt_run (s : State) (b : Byte) : (s.setDt b).run = s.run := rfl
@[simp] theorem setDt_speed (s : State) (b : Byte) : (s.setDt b).speed = s.speed := rfl
@[simp] theorem setDt_soundEn (s : State) (b : Byte) : (s.setDt b).soundEn = s.soundEn := rfl
@[simp] theorem setDt_soundOn (s : State) (b : Byte) : (s.setDt b).soundOn = s.soundOn := rfl
@[simp] theorem setDt_fault (s : State) (b : Byte) : (s.setDt b).fault = s.fault := rfl
@[simp] theorem setDt_loadOk (s : State) (b : Byte) : (s.setDt b).loadOk = s.loadOk := rfl
@[simp] theorem setDt_mem (s : State) (b : Byte) : (s.setDt b).mem = s.mem := rfl
@[simp] theorem setDt_par (s : State) (b : Byte) : (s.setDt b).par = s.par := rfl
@[simp] theorem setDt_rand (s : State) (b : Byte) : (s.setDt b).rand = s.rand := rfl
@[simp] theorem setDt_randUsed (s : State) (b : Byte) : (s.setDt b).randUsed = s.randUsed := rfl
@[simp] theorem setDt_draws (s : State) (b : Byte) : (s.setDt b).draws = s.draws := rfl
@[simp] theorem setDt_inputs (s : State) (b : Byte) : (s.setDt b).inputs = s.inputs := rfl

/-! ## setSt -/

@[simp] theorem setSt_v (s : State) (b : Byte) : (s.setSt b).v = s.v := rfl
@[simp] theorem setSt_i (s : State) (b : Byte) : (s.setSt b).i = s.i := rfl
@[simp] theorem setSt_pc (s : State) (b : Byte) : (s.setSt b).pc = s.pc := rfl
@[simp] theorem setSt_dt (s : State) (b : Byte) : (s.setSt b).dt = s.dt := rfl
@[simp] theorem setSt_st (s : State) (b : Byte) : (s.setSt b).st = b := rfl
@[simp] theorem setSt_stack (s : State) (b : Byte) : (s.setSt b).stack = s.stack := rfl
@[simp] theorem setSt_res (s : State) (b : Byte) : (s.setSt b).res = s.res := rfl
@[simp] theorem setSt_phys (s : State) (b : Byte) : (s.setSt b).phys = s.phys := rfl
@[simp] theorem setSt_int (s : State) (b : Byte) : (s.setSt b).int = s.int := rfl
@[simp] theorem setSt_kw (s : State) (b : Byte) : (s.setSt b).kw = s.kw := rfl
@[simp] theorem setSt_kdl (s : State) (b : Byte) : (s.setSt b).kdl = s.kdl := rfl
@[simp] theorem setSt_key (s : State) (b : Byte) : (s.setSt b).key = s.key := rfl
@[simp] theorem setSt_pressed (s : State) (b : Byte) : (s.setSt b).pressed = s.pressed := rfl
@[simp] theorem setSt_run (s : State) (b : Byte) : (s.setSt b).run = s.run := rfl
@[simp] theorem setSt_speed (s : State) (b : Byte) : (s.setSt b).speed = s.speed := rfl
@[simp] theorem setSt_soundEn (s : State) (b : Byte) : (s.setSt b).soundEn = s.soundEn := rfl
@[simp] theorem setSt_soundOn (s : State) (b : Byte) : (s.setSt b).soundOn = s.soundOn := rfl
@[simp] theorem setSt_fault (s : State) (b : Byte) : (s.setSt b).fault = s.fault := rfl
@[simp] theorem setSt_loadOk (s : State) (b : Byte) : (s.setSt b).loadOk = s.loadOk := rfl
@[simp] theorem setSt_mem (s : State) (b : Byte) : (s.setSt b).mem = s.mem := rfl
@[simp] theorem setSt_par (s : State) (b : Byte) : (s.setSt b).par = s.par := rfl
@[simp] theorem setSt_rand (s : State) (b : Byte) : (s.setSt b).rand = s.rand := rfl
@[simp] theorem setSt_randUsed (s : State) (b : Byte) : (s.setSt b).randUsed = s.randUsed := rfl
@[simp] theorem setSt_draws (s : State) (b : Byte) : (s.setSt b).draws = s.draws := rfl
@[simp] theorem setSt_inputs (s : State) (b : Byte) : (s.setSt b).inputs = s.inputs := rfl

/-! ## setStack -/

@[simp] theorem setStack_v (s : State) (k : List Word) : (s.setStack k).v = s.v := rfl
@[simp] theorem setStack_i (s : State) (k : List Word) : (s.setStack k).i = s.i := rfl
@[simp] theorem setStack_pc (s : State) (k : List Word) : (s.setStack k).pc = s.pc := rfl
@[simp] theorem setStack_dt (s : State) (k : List Word) : (s.setStack k).dt = s.dt := rfl
@[simp] theorem setStack_st (s : State) (k : List Word) : (s.setStack k).st = s.st := rfl
@[simp] theorem setStack_stack (s : State) (k : List Word) : (s.setStack k).stack = k := rfl
@[simp] theorem setStack_res (s : State) (k : List Word) : (s.setStack k).res = s.res := rfl
@[simp] theorem setStack_phys (s : State) (k : List Word) : (s.setStack k).phys = s.phys := rfl
@[simp] theorem setStack_int (s : State) (k : List Word) : (s.setStack k).int = s.int := rfl
@[simp] theorem setStack_kw (s : State) (k : List Word) : (s.setStack k).kw = s.kw := rfl
@[simp] theorem setStack_kdl (s : State) (k : List Word) : (s.setStack k).kdl = s.kdl := rfl
@[simp] theorem setStack_key (s : State) (k : List Word) : (s.setStack k).key = s.key := rfl
@[simp] theorem setStack_pressed (s : State) (k : List Word) : (s.setStack k).pressed = s.pressed := rfl
@[simp] theorem setStack_run (s : State) (k : List Word) : (s.setStack k).run = s.run := rfl
@[simp] theorem setStack_speed (s : State) (k : List Word) : (s.setStack k).speed = s.speed := rfl
@[simp] theorem setStack_soundEn (s : State) (k : List Word) : (s.setStack k).soundEn = s.soundEn := rfl
@[simp] theorem setStack_soundOn (s : State) (k : List Word) : (s.setStack k).soundOn = s.soundOn := rfl
@[simp] theorem setStack_fault (s : State) (k : List Word) : (s.setStack k).fault = s.fault := rfl
@[simp] theorem setStack_loadOk (s : State) (k : List Word) : (s.setStack k).loadOk = s.loadOk := rfl
@[simp] theorem setStack_mem (s : State) (k : List Word) : (s.setStack k).mem = s.mem := rfl
@[simp] theorem setStack_par (s : State) (k : List Word) : (s.setStack k).par = s.par := rfl
@[simp] theorem setStack_rand (s : State) (k : List Word) : (s.setStack k).rand = s.rand := rfl
@[simp] theorem setStack_randUsed (s : State) (k : List Word) : (s.setStack k).randUsed = s.randUsed := rfl
@[simp] theorem setStack_draws (s : State) (k : List Word) : (s.setStack k).draws = s.draws := rfl
@[simp] theorem setStack_inputs (s : State) (k : List Word) : (s.setStack k).inputs = s.inputs := rfl

/-! ## setRes -/

@[simp] theorem setRes_v (s : State) (r : Resolution) : (s.setRes r).v = s.v := rfl
@[simp] theorem setRes_i (s : State) (r : Resolution) : (s.setRes r).i = s.i := rfl
@[simp] theorem setRes_pc (s : State) (r : Resolution) : (s.setRes r).pc = s.pc := rfl
@[simp] theorem setRes_dt (s : State) (r : Resolution) : (s.setRes r).dt = s.dt := rfl
@[simp] theorem setRes_st (s : State) (r : Resolution) : (s.setRes r).st = s.st := rfl
@[simp] theorem setRes_stack (s : State) (r : Resolution) : (s.setRes r).stack = s.stack := rfl
@[simp] theorem setRes_res (s : State) (r : Resolution) : (s.setRes r).res = r := rfl
@[simp] theorem setRes_phys (s : State) (r : Resolution) : (s.setRes r).phys = s.phys := rfl
@[simp] theorem setRes_int (s : State) (r : Resolution) : (s.setRes r).int = s.int := rfl
@[simp] theorem setRes_kw (s : State) (r : Resolution) : (s.setRes r).kw = s.kw := rfl
@[simp] theorem setRes_kdl (s : State) (r : Resolution) : (s.setRes r).kdl = s.kdl := rfl
@[simp] theorem setRes_key (s : State) (r : Resolution) : (s.setRes r).key = s.key := rfl
@[simp] theorem setRes_pressed (s : State) (r : Resolution) : (s.setRes r).pressed = s.pressed := rfl
@[simp] theorem setRes_run (s : State) (r : Resolution) : (s.setRes r).run = s.run := rfl
@[simp] theorem setRes_speed (s : State) (r : Resolution) : (s.setRes r).speed = s.speed := rfl
@[simp] theorem setRes_soundEn (s : State) (r : Resolution) : (s.setRes r).soundEn = s.soundEn := rfl
@[simp] theorem setRes_soundOn (s : State) (r : Resolution) : (s.setRes r).soundOn = s.soundOn := rfl
@[simp] theorem setRes_fault (s : State) (r : Resolution) : (s.setRes r).fault = s.fault := rfl
@[simp] theorem setRes_loadOk (s : State) (r : Resolution) : (s.setRes r).loadOk = s.loadOk := rfl
@[simp] theorem setRes_mem (s : State) (r : Resolution) : (s.setRes r).mem = s.mem := rfl
@[simp] theorem setRes_par (s : State) (r : Resolution) : (s.setRes r).par = s.par := rfl
@[simp] theorem setRes_rand (s : State) (r : Resolution) : (s.setRes r).rand = s.rand := rfl
@[simp] theorem setRes_randUsed (s : State) (r : Resolution) : (s.setRes r).randUsed = s.randUsed := rfl
@[simp] theorem setRes_draws (s : State) (r : Resolution) : (s.setRes r).draws = s.draws := rfl
@[simp] theorem setRes_inputs (s : State) (r : Resolution) : (s.setRes r).inputs = s.inputs := rfl

/-! ## setPhys -/

@[simp] theorem setPhys_v (s : State) (g : Grid) : (s.setPhys g).v = s.v := rfl
@[simp] theorem setPhys_i (s : State) (g : Grid) : (s.setPhys g).i = s.i := rfl
@[simp] theorem setPhys_pc (s : State) (g : Grid) : (s.setPhys g).pc = s.pc := rfl
@[simp] theorem setPhys_dt (s : State) (g : Grid) : (s.setPhys g).dt = s.dt := rfl
@[simp] theorem setPhys_st (s : State) (g : Grid) : (s.setPhys g).st = s.st := rfl
@[simp] theorem setPhys_stack (s : State) (g : Grid) : (s.setPhys g).stack = s.stack := rfl
@[simp] theorem setPhys_res (s : State) (g : Grid) : (s.setPhys g).res = s.res := rfl
@[simp] theorem setPhys_phys (s : State) (g : Grid) : (s.setPhys g).phys = g := rfl
@[simp] theorem setPhys_int (s : State) (g : Grid) : (s.setPhys g).int = s.int := rfl
@[simp] theorem setPhys_kw (s : State) (g : Grid) : (s.setPhys g).kw = s.kw := rfl
@[simp] theorem setPhys_kdl (s : State) (g : Grid) : (s.setPhys g).kdl = s.kdl := rfl
@[simp] theorem setPhys_key (s : State) (g : Grid) : (s.setPhys g).key = s.key := rfl
@[simp] theorem setPhys_pressed (s : State) (g : Grid) : (s.setPhys g).pressed = s.pressed := rfl
@[simp] theorem setPhys_run (s : State) (g : Grid) : (s.setPhys g).run = s.run := rfl
@[simp] theorem setPhys_speed (s : State) (g : Grid) : (s.setPhys g).speed = s.speed := rfl
@[simp] theorem setPhys_soundEn (s : State) (g : Grid) : (s.setPhys g).soundEn = s.soundEn := rfl
@[simp] theorem setPhys_soundOn (s : State) (g : Grid) : (s.setPhys g).soundOn = s.soundOn := rfl
@[simp] theorem setPhys_fault (s : State) (g : Grid) : (s.setPhys g).fault = s.fault := rfl
@[simp] theorem setPhys_loadOk (s : State) (g : Grid) : (s.setPhys g).loadOk = s.loadOk := rfl
@[simp] theorem setPhys_mem (s : State) (g : Grid) : (s.setPhys g).mem = s.mem := rfl
@[simp] theorem setPhys_par (s : State) (g : Grid) : (s.setPhys g).par = s.par := rfl
@[simp] theorem setPhys_rand (s : State) (g : Grid) : (s.setPhys g).rand = s.rand := rfl
@[simp] theorem setPhys_randUsed (s : State) (g : Grid) : (s.setPhys g).randUsed = s.randUsed := rfl
@[simp] theorem setPhys_draws (s : State) (g : Grid) : (s.setPhys g).draws = s.draws := rfl
@[simp] theorem setPhys_inputs (s : State) (g : Grid) : (s.setPhys g).inputs = s.inputs := rfl

/-! ## setInt -/

@[simp] theorem setInt_v (s : State) (b : Bool) : (s.setInt b).v = s.v := rfl
@[simp] theorem setInt_i (s : State) (b : Bool) : (s.setInt b).i = s.i := rfl
@[simp] theorem setInt_pc (s : State) (b : Bool) : (s.setInt b).pc = s.pc := rfl
@[simp] theorem setInt_dt (s : State) (b : Bool) : (s.setInt b).dt = s.dt := rfl
@[simp] theorem setInt_st (s : State) (b : Bool) : (s.setInt b).st = s.st := rfl
@[simp] theorem setInt_stack (s : State) (b : Bool) : (s.setInt b).stack = s.stack := rfl
@[simp] theorem setInt_res (s : State) (b : Bool) : (s.setInt b).res = s.res := rfl
@[simp] theorem setInt_phys (s : State) (b : Bool) : (s.setInt b).phys = s.phys := rfl
@[simp] theorem setInt_int (s : State) (b : Bool) : (s.setInt b).int = b := rfl
@[simp] theorem setInt_kw (s : State) (b : Bool) : (s.setInt b).kw = s.kw := rfl
@[simp] theorem setInt_kdl (s : State) (b : Bool) : (s.setInt b).kdl = s.kdl := rfl
@[simp] theorem setInt_key (s : State) (b : Bool) : (s.setInt b).key = s.key := rfl
@[simp] theorem setInt_pressed (s : State) (b : Bool) : (s.setInt b).pressed = s.pressed := rfl
@[simp] theorem setInt_run (s : State) (b : Bool) : (s.setInt b).run = s.run := rfl
@[simp] theorem setInt_speed (s : State) (b : Bool) : (s.setInt b).speed = s.speed := rfl
@[simp] theorem setInt_soundEn (s : State) (b : Bool) : (s.setInt b).soundEn = s.soundEn := rfl
@[simp] theorem setInt_soundOn (s : State) (b : Bool) : (s.setInt b).soundOn = s.soundOn := rfl
@[simp] theorem setInt_fault (s : State) (b : Bool) : (s.setInt b).fault = s.fault := rfl
@[simp] theorem setInt_loadOk (s : State) (b : Bool) : (s.setInt b).loadOk = s.loadOk := rfl
@[simp] theorem setInt_mem (s : State) (b : Bool) : (s.setInt b).mem = s.mem := rfl
@[simp] theorem setInt_par (s : State) (b : Bool) : (s.setInt b).par = s.par := rfl
@[simp] theorem setInt_rand (s : State) (b : Bool) : (s.setInt b).rand = s.rand := rfl
@[simp] theorem setInt_randUsed (s : State) (b : Bool) : (s.setInt b).randUsed = s.randUsed := rfl
@[simp] theorem setInt_draws (s : State) (b : Bool) : (s.setInt b).draws = s.draws := rfl
@[simp] theorem setInt_inputs (s : State) (b : Bool) : (s.setInt b).inputs = s.inputs := rfl

/-! ## setKeyWait -/

@[simp] theorem setKeyWait_v (s : State) (b l : Bool) : (s.setKeyWait b l).v = s.v := rfl
@[simp] theorem setKeyWait_i (s : State) (b l : Bool) : (s.setKeyWait b l).i = s.i := rfl
@[simp] theorem setKeyWait_pc (s : State) (b l : Bool) : (s.setKeyWait b l).pc = s.pc := rfl
@[simp] theorem setKeyWait_dt (s : State) (b l : Bool) : (s.setKeyWait b l).dt = s.dt := rfl
@[simp] theorem setKeyWait_st (s : State) (b l : Bool) : (s.setKeyWait b l).st = s.st := rfl
@[simp] theorem setKeyWait_stack (s : State) (b l : Bool) : (s.setKeyWait b l).stack = s.stack := rfl
@[simp] theorem setKeyWait_res (s : State) (b l : Bool) : (s.setKeyWait b l).res = s.res := rfl
@[simp] theorem setKeyWait_phys (s : State) (b l : Bool) : (s.setKeyWait b l).phys = s.phys := rfl
@[simp] theorem setKeyWait_int (s : State) (b l : Bool) : (s.setKeyWait b l).int = s.int := rfl
@[simp] theorem setKeyWait_kw (s : State) (b l : Bool) : (s.setKeyWait b l).kw = b := rfl
@[simp] theorem setKeyWait_kdl (s : State) (b l : Bool) : (s.setKeyWait b l).kdl = l := rfl
@[simp] theorem setKeyWait_key (s : State) (b l : Bool) : (s.setKeyWait b l).key = s.key := rfl
@[simp] theorem setKeyWait_pressed (s : State) (b l : Bool) : (s.setKeyWait b l).pressed = s.pressed := rfl
@[simp] theorem setKeyWait_run (s : State) (b l : Bool) : (s.setKeyWait b l).run = s.run := rfl
@[simp] theorem setKeyWait_speed (s : State) (b l : Bool) : (s.setKeyWait b l).speed = s.speed := rfl
@[simp] theorem setKeyWait_soundEn (s : State) (b l : Bool) : (s.setKeyWait b l).soundEn = s.soundEn := rfl
@[simp] theorem setKeyWait_soundOn (s : State) (b l : Bool) : (s.setKeyWait b l).soundOn = s.soundOn := rfl
@[simp] theorem setKeyWait_fault (s : State) (b l : Bool) : (s.setKeyWait b l).fault = s.fault := rfl
@[simp] theorem setKeyWait_loadOk (s : State) (b l : Bool) : (s.setKeyWait b l).loadOk = s.loadOk := rfl
@[simp] theorem setKeyWait_mem (s : State) (b l : Bool) : (s.setKeyWait b l).mem = s.mem := rfl
@[simp] theorem setKeyWait_par (s : State) (b l : Bool) : (s.setKeyWait b l).par = s.par := rfl
@[simp] theorem setKeyWait_rand (s : State) (b l : Bool) : (s.setKeyWait b l).rand = s.rand := rfl
@[simp] theorem setKeyWait_randUsed (s : State) (b l : Bool) : (s.setKeyWait b l).randUsed = s.randUsed := rfl
@[simp] theorem setKeyWait_draws (s : State) (b l : Bool) : (s.setKeyWait b l).draws = s.draws := rfl
@[simp] theorem setKeyWait_inputs (s : State) (b l : Bool) : (s.setKeyWait b l).inputs = s.inputs := rfl

/-! ## setMem -/

@[simp] theorem setMem_v (s : State) (m : Memory) : (s.setMem m).v = s.v := rfl
@[simp] theorem setMem_i (s : State) (m : Memory) : (s.setMem m).i = s.i := rfl
@[simp] theorem setMem_pc (s : State) (m : Memory) : (s.setMem m).pc = s.pc := rfl
@[simp] theorem setMem_dt (s : State) (m : Memory) : (s.setMem m).dt = s.dt := rfl
@[simp] theorem setMem_st (s : State) (m : Memory) : (s.setMem m).st = s.st := rfl
@[simp] theorem setMem_stack (s : State) (m : Memory) : (s.setMem m).stack = s.stack := rfl
@[simp] theorem setMem_res (s : State) (m : Memory) : (s.setMem m).res = s.res := rfl
@[simp] theorem setMem_phys (s : State) (m : Memory) : (s.setMem m).phys = s.phys := rfl
@[simp] theorem setMem_int (s : State) (m : Memory) : (s.setMem m).int = s.int := rfl
@[simp] theorem setMem_kw (s : State) (m : Memory) : (s.setMem m).kw = s.kw := rfl
@[simp] theorem setMem_kdl (s : State) (m : Memory) : (s.setMem m).kdl = s.kdl := rfl
@[simp] theorem setMem_key (s : State) (m : Memory) : (s.setMem m).key = s.key := rfl
@[simp] theorem setMem_pressed (s : State) (m : Memory) : (s.setMem m).pressed = s.pressed := rfl
@[simp] theorem setMem_run (s : State) (m : Memory) : (s.setMem m).run = s.run := rfl
@[simp] theorem setMem_speed (s : State) (m : Memory) : (s.setMem m).speed = s.speed := rfl
@[simp] theorem setMem_soundEn (s : State) (m : Memory) : (s.setMem m).soundEn = s.soundEn := rfl
@[simp] theorem setMem_soundOn (s : State) (m : Memory) : (s.setMem m).soundOn = s.soundOn := rfl
@[simp] theorem setMem_fault (s : State) (m : Memory) : (s.setMem m).fault = s.fault := rfl
@[simp] theorem setMem_loadOk (s : State) (m : Memory) : (s.setMem m).loadOk = s.loadOk := rfl
@[simp] theorem setMem_mem (s : State) (m : Memory) : (s.setMem m).mem = m := rfl
@[simp] theorem setMem_par (s : State) (m : Memory) : (s.setMem m).par = s.par := rfl
@[simp] theorem setMem_rand (s : State) (m : Memory) : (s.setMem m).rand = s.rand := rfl
@[simp] theorem setMem_randUsed (s : State) (m : Memory) : (s.setMem m).randUsed = s.randUsed := rfl
@[simp] theorem setMem_draws (s : State) (m : Memory) : (s.setMem m).draws = s.draws := rfl
@[simp] theorem setMem_inputs (s : State) (m : Memory) : (s.setMem m).inputs = s.inputs := rfl

/-! ## drawRandom -/

@[simp] theorem drawRandom_v (s : State) : (s.drawRandom).v = s.v := rfl
@[simp] theorem drawRandom_i (s : State) : (s.drawRandom).i = s.i := rfl
@[simp] theorem drawRandom_pc (s : State) : (s.drawRandom).pc = s.pc := rfl
@[simp] theorem drawRandom_dt (s : State) : (s.drawRandom).dt = s.dt := rfl
@[simp] theorem drawRandom_st (s : State) : (s.drawRandom).st = s.st := rfl
@[simp] theorem drawRandom_stack (s : State) : (s.drawRandom).stack = s.stack := rfl
@[simp] theorem drawRandom_res (s : State) : (s.drawRandom).res = s.res := rfl
@[simp] theorem drawRandom_phys (s : State) : (s.drawRandom).phys = s.phys := rfl
@[simp] theorem drawRandom_int (s : State) : (s.drawRandom).int = s.int := rfl
@[simp] theorem drawRandom_kw (s : State) : (s.drawRandom).kw = s.kw := rfl
@[simp] theorem drawRandom_kdl (s : State) : (s.drawRandom).kdl = s.kdl := rfl
@[simp] theorem drawRandom_key (s : State) : (s.drawRandom).key = s.key := rfl
@[simp] theorem drawRandom_pressed (s : State) : (s.drawRandom).pressed = s.pressed := rfl
@[simp] theorem drawRandom_run (s : State) : (s.drawRandom).run = s.run := rfl
@[simp] theorem drawRandom_speed (s : State) : (s.drawRandom).speed = s.speed := rfl
@[simp] theorem drawRandom_soundEn (s : State) : (s.drawRandom).soundEn = s.soundEn := rfl
@[simp] theorem drawRandom_soundOn (s : State) : (s.drawRandom).soundOn = s.soundOn := rfl
@[simp] theorem drawRandom_fault (s : State) : (s.drawRandom).fault = s.fault := rfl
@[simp] theorem drawRandom_loadOk (s : State) : (s.drawRandom).loadOk = s.loadOk := rfl
@[simp] theorem drawRandom_mem (s : State) : (s.drawRandom).mem = s.mem := rfl
@[simp] theorem drawRandom_par (s : State) : (s.drawRandom).par = s.par := rfl
@[simp] theorem drawRandom_rand (s : State) : (s.drawRandom).rand = s.rand.tail := rfl
@[simp] theorem drawRandom_randUsed (s : State) : (s.drawRandom).randUsed = s.randUsed + 1 := rfl
@[simp] theorem drawRandom_draws (s : State) : (s.drawRandom).draws = s.draws := rfl
@[simp] theorem drawRandom_inputs (s : State) : (s.drawRandom).inputs = s.inputs := rfl

/-! ## latchFault -/

@[simp] theorem latchFault_v (s : State) (c : Cause) (a : Word) (n : Nat) : (s.latchFault c a n).v = s.v := rfl
@[simp] theorem latchFault_i (s : State) (c : Cause) (a : Word) (n : Nat) : (s.latchFault c a n).i = s.i := rfl
@[simp] theorem latchFault_pc (s : State) (c : Cause) (a : Word) (n : Nat) : (s.latchFault c a n).pc = a := rfl
@[simp] theorem latchFault_dt (s : State) (c : Cause) (a : Word) (n : Nat) : (s.latchFault c a n).dt = s.dt := rfl
@[simp] theorem latchFault_st (s : State) (c : Cause) (a : Word) (n : Nat) : (s.latchFault c a n).st = s.st := rfl
@[simp] theorem latchFault_stack (s : State) (c : Cause) (a : Word) (n : Nat) : (s.latchFault c a n).stack = s.stack := rfl
@[simp] theorem latchFault_res (s : State) (c : Cause) (a : Word) (n : Nat) : (s.latchFault c a n).res = s.res := rfl
@[simp] theorem latchFault_phys (s : State) (c : Cause) (a : Word) (n : Nat) : (s.latchFault c a n).phys = s.phys := rfl
@[simp] theorem latchFault_int (s : State) (c : Cause) (a : Word) (n : Nat) : (s.latchFault c a n).int = s.int := rfl
@[simp] theorem latchFault_kw (s : State) (c : Cause) (a : Word) (n : Nat) : (s.latchFault c a n).kw = s.kw := rfl
@[simp] theorem latchFault_kdl (s : State) (c : Cause) (a : Word) (n : Nat) : (s.latchFault c a n).kdl = s.kdl := rfl
@[simp] theorem latchFault_key (s : State) (c : Cause) (a : Word) (n : Nat) : (s.latchFault c a n).key = s.key := rfl
@[simp] theorem latchFault_pressed (s : State) (c : Cause) (a : Word) (n : Nat) : (s.latchFault c a n).pressed = s.pressed := rfl
@[simp] theorem latchFault_run (s : State) (c : Cause) (a : Word) (n : Nat) : (s.latchFault c a n).run = s.run := rfl
@[simp] theorem latchFault_speed (s : State) (c : Cause) (a : Word) (n : Nat) : (s.latchFault c a n).speed = s.speed := rfl
@[simp] theorem latchFault_soundEn (s : State) (c : Cause) (a : Word) (n : Nat) : (s.latchFault c a n).soundEn = s.soundEn := rfl
@[simp] theorem latchFault_soundOn (s : State) (c : Cause) (a : Word) (n : Nat) : (s.latchFault c a n).soundOn = s.soundOn := rfl
@[simp] theorem latchFault_fault (s : State) (c : Cause) (a : Word) (n : Nat) : (s.latchFault c a n).fault = some { cause := c, pc := a, info := n } := rfl
@[simp] theorem latchFault_loadOk (s : State) (c : Cause) (a : Word) (n : Nat) : (s.latchFault c a n).loadOk = s.loadOk := rfl
@[simp] theorem latchFault_mem (s : State) (c : Cause) (a : Word) (n : Nat) : (s.latchFault c a n).mem = s.mem := rfl
@[simp] theorem latchFault_par (s : State) (c : Cause) (a : Word) (n : Nat) : (s.latchFault c a n).par = s.par := rfl
@[simp] theorem latchFault_rand (s : State) (c : Cause) (a : Word) (n : Nat) : (s.latchFault c a n).rand = s.rand := rfl
@[simp] theorem latchFault_randUsed (s : State) (c : Cause) (a : Word) (n : Nat) : (s.latchFault c a n).randUsed = s.randUsed := rfl
@[simp] theorem latchFault_draws (s : State) (c : Cause) (a : Word) (n : Nat) : (s.latchFault c a n).draws = s.draws := rfl
@[simp] theorem latchFault_inputs (s : State) (c : Cause) (a : Word) (n : Nat) : (s.latchFault c a n).inputs = s.inputs := rfl

/-! ## strobe -/

@[simp] theorem strobe_v (s : State) : (s.strobe).v = s.v := rfl
@[simp] theorem strobe_i (s : State) : (s.strobe).i = s.i := rfl
@[simp] theorem strobe_pc (s : State) : (s.strobe).pc = s.pc := rfl
@[simp] theorem strobe_dt (s : State) : (s.strobe).dt = s.dt := rfl
@[simp] theorem strobe_st (s : State) : (s.strobe).st = s.st := rfl
@[simp] theorem strobe_stack (s : State) : (s.strobe).stack = s.stack := rfl
@[simp] theorem strobe_res (s : State) : (s.strobe).res = s.res := rfl
@[simp] theorem strobe_phys (s : State) : (s.strobe).phys = s.phys := rfl
@[simp] theorem strobe_int (s : State) : (s.strobe).int = s.int := rfl
@[simp] theorem strobe_kw (s : State) : (s.strobe).kw = s.kw := rfl
@[simp] theorem strobe_kdl (s : State) : (s.strobe).kdl = s.kdl := rfl
@[simp] theorem strobe_key (s : State) : (s.strobe).key = s.key := rfl
@[simp] theorem strobe_pressed (s : State) : (s.strobe).pressed = s.pressed := rfl
@[simp] theorem strobe_run (s : State) : (s.strobe).run = s.run := rfl
@[simp] theorem strobe_speed (s : State) : (s.strobe).speed = s.speed := rfl
@[simp] theorem strobe_soundEn (s : State) : (s.strobe).soundEn = s.soundEn := rfl
@[simp] theorem strobe_soundOn (s : State) : (s.strobe).soundOn = s.soundOn := rfl
@[simp] theorem strobe_fault (s : State) : (s.strobe).fault = s.fault := rfl
@[simp] theorem strobe_loadOk (s : State) : (s.strobe).loadOk = s.loadOk := rfl
@[simp] theorem strobe_mem (s : State) : (s.strobe).mem = s.mem := rfl
@[simp] theorem strobe_par (s : State) : (s.strobe).par = s.par := rfl
@[simp] theorem strobe_rand (s : State) : (s.strobe).rand = s.rand := rfl
@[simp] theorem strobe_randUsed (s : State) : (s.strobe).randUsed = s.randUsed := rfl
@[simp] theorem strobe_draws (s : State) : (s.strobe).draws = s.draws + 1 := rfl
@[simp] theorem strobe_inputs (s : State) : (s.strobe).inputs = s.inputs := rfl

/-! ## takeEvent -/

@[simp] theorem takeEvent_v (s : State) : (s.takeEvent).v = s.v := rfl
@[simp] theorem takeEvent_i (s : State) : (s.takeEvent).i = s.i := rfl
@[simp] theorem takeEvent_pc (s : State) : (s.takeEvent).pc = s.pc := rfl
@[simp] theorem takeEvent_dt (s : State) : (s.takeEvent).dt = s.dt := rfl
@[simp] theorem takeEvent_st (s : State) : (s.takeEvent).st = s.st := rfl
@[simp] theorem takeEvent_stack (s : State) : (s.takeEvent).stack = s.stack := rfl
@[simp] theorem takeEvent_res (s : State) : (s.takeEvent).res = s.res := rfl
@[simp] theorem takeEvent_phys (s : State) : (s.takeEvent).phys = s.phys := rfl
@[simp] theorem takeEvent_int (s : State) : (s.takeEvent).int = s.int := rfl
@[simp] theorem takeEvent_kw (s : State) : (s.takeEvent).kw = s.kw := rfl
@[simp] theorem takeEvent_kdl (s : State) : (s.takeEvent).kdl = s.kdl := rfl
@[simp] theorem takeEvent_key (s : State) : (s.takeEvent).key = s.key := rfl
@[simp] theorem takeEvent_pressed (s : State) : (s.takeEvent).pressed = s.pressed := rfl
@[simp] theorem takeEvent_run (s : State) : (s.takeEvent).run = s.run := rfl
@[simp] theorem takeEvent_speed (s : State) : (s.takeEvent).speed = s.speed := rfl
@[simp] theorem takeEvent_soundEn (s : State) : (s.takeEvent).soundEn = s.soundEn := rfl
@[simp] theorem takeEvent_soundOn (s : State) : (s.takeEvent).soundOn = s.soundOn := rfl
@[simp] theorem takeEvent_fault (s : State) : (s.takeEvent).fault = s.fault := rfl
@[simp] theorem takeEvent_loadOk (s : State) : (s.takeEvent).loadOk = s.loadOk := rfl
@[simp] theorem takeEvent_mem (s : State) : (s.takeEvent).mem = s.mem := rfl
@[simp] theorem takeEvent_par (s : State) : (s.takeEvent).par = s.par := rfl
@[simp] theorem takeEvent_rand (s : State) : (s.takeEvent).rand = s.rand := rfl
@[simp] theorem takeEvent_randUsed (s : State) : (s.takeEvent).randUsed = s.randUsed := rfl
@[simp] theorem takeEvent_draws (s : State) : (s.takeEvent).draws = s.draws := rfl
@[simp] theorem takeEvent_inputs (s : State) : (s.takeEvent).inputs = s.inputs.tail := rfl

/-! ## Reading a register back (10_state.md R20) -/

theorem reg_eq (s : State) (x : Nibble) : s.reg x = s.v[x.toNat]'x.isLt := rfl

/-- A register read after a register write: the one written holds the value, every other as before. -/
theorem reg_setV (s : State) (x y : Nibble) (b : Byte) : (s.setV x b).reg y = if x = y then b else s.reg y := by
  unfold reg setV
  by_cases h : x = y
  · subst h; simp
  · have : x.toNat ≠ y.toNat := fun e => h (BitVec.eq_of_toNat_eq e)
    simp [h, this]

@[simp] theorem reg_setV_same (s : State) (x : Nibble) (b : Byte) : (s.setV x b).reg x = b := by simp [reg_setV]

theorem reg_setV_other (s : State) {x y : Nibble} (b : Byte) (h : x ≠ y) : (s.setV x b).reg y = s.reg y := by
  simp [reg_setV, h]

/-- An update that leaves the register file leaves every register. -/
theorem reg_congr {s t : State} (h : t.v = s.v) (x : Nibble) : t.reg x = s.reg x := by simp [reg_eq, h]

@[simp] theorem reg_setI (s : State) (a : Word) (x : Nibble) : (s.setI a).reg x = s.reg x := rfl
@[simp] theorem reg_setPc (s : State) (a : Word) (x : Nibble) : (s.setPc a).reg x = s.reg x := rfl
@[simp] theorem reg_setDt (s : State) (b : Byte) (x : Nibble) : (s.setDt b).reg x = s.reg x := rfl
@[simp] theorem reg_setSt (s : State) (b : Byte) (x : Nibble) : (s.setSt b).reg x = s.reg x := rfl
@[simp] theorem reg_setStack (s : State) (k : List Word) (x : Nibble) : (s.setStack k).reg x = s.reg x := rfl
@[simp] theorem reg_setRes (s : State) (r : Resolution) (x : Nibble) : (s.setRes r).reg x = s.reg x := rfl
@[simp] theorem reg_setPhys (s : State) (g : Grid) (x : Nibble) : (s.setPhys g).reg x = s.reg x := rfl
@[simp] theorem reg_setInt (s : State) (b : Bool) (x : Nibble) : (s.setInt b).reg x = s.reg x := rfl
@[simp] theorem reg_setKeyWait (s : State) (b l : Bool) (x : Nibble) : (s.setKeyWait b l).reg x = s.reg x := rfl
@[simp] theorem reg_setMem (s : State) (m : Memory) (x : Nibble) : (s.setMem m).reg x = s.reg x := rfl
@[simp] theorem reg_drawRandom (s : State) (x : Nibble) : (s.drawRandom).reg x = s.reg x := rfl
@[simp] theorem reg_latchFault (s : State) (c : Cause) (a : Word) (n : Nat) (x : Nibble) : (s.latchFault c a n).reg x = s.reg x := rfl
@[simp] theorem reg_strobe (s : State) (x : Nibble) : (s.strobe).reg x = s.reg x := rfl
@[simp] theorem reg_takeEvent (s : State) (x : Nibble) : (s.takeEvent).reg x = s.reg x := rfl

end Sys2Proof.Machine.State
end

