-- ==== Sys2Proof/Laws/Ops.lean ====
section
/-! SUPPORT. What the shared operations can do, said once: the checked access, the bounded push, the conditional skip, the flag
after a logic operation, the fetch, the end of a tick. -/

namespace Sys2Proof.Machine

/-! ## The checked access (R57, R58) -/

/-- A range that exists lets the instruction complete. -/
theorem State.accessing_of_le (s : State) {base len : Nat} (h : base + len ≤ memSize) (done : State) :
    s.accessing base len done = done := by
  simp [State.accessing, (firstOutOfRange_eq_none base len).mpr (.inr h)]

/-- An empty range accesses nothing. -/
@[simp] theorem State.accessing_empty (s : State) (base : Nat) (done : State) : s.accessing base 0 done = done := by
  simp [State.accessing, (firstOutOfRange_eq_none base 0).mpr (.inl rfl)]

/-- The address a range that leaves memory faults with. -/
theorem firstOutOfRange_of_gt {base len : Nat} (hl : 0 < len) (h : memSize < base + len) :
    firstOutOfRange base len = some (max base memSize) :=
  (firstOutOfRange_eq_some base len _).mpr (by omega)

/-- A range that leaves memory faults with its lowest address that does not exist. -/
theorem State.accessing_of_gt (s : State) {base len : Nat} (hl : 0 < len) (h : memSize < base + len) (done : State) :
    s.accessing base len done = s.latchFault .dataBounds (s.pc - 2#16) (max base memSize) := by
  simp [State.accessing, firstOutOfRange_of_gt hl h]

/-- All that a checked access can give. -/
theorem State.accessing_cases (s : State) (base len : Nat) (done : State) :
    s.accessing base len done = done ∨
      ∃ a, memSize ≤ a ∧ s.accessing base len done = s.latchFault .dataBounds (s.pc - 2#16) a := by
  unfold State.accessing
  cases h : firstOutOfRange base len with
  | none => exact .inl rfl
  | some a => exact .inr ⟨a, ((firstOutOfRange_eq_some base len a).mp h).2.2.1, rfl⟩

/-! ## The push (R27) -/

/-- An unbounded stack takes every push. -/
theorem State.pushing_unbounded (s : State) (h : s.par.stackLimit = none) (done : State) : s.pushing done = done := by
  simp [State.pushing, h]

/-- All that a push can give. -/
theorem State.pushing_cases (s : State) (done : State) :
    (s.pushing done = done ∧ ∀ bound, s.par.stackLimit = some bound → s.stack.length < bound) ∨
      ∃ bound, s.par.stackLimit = some bound ∧ bound ≤ s.stack.length ∧
        s.pushing done = s.latchFault .stackLimit (s.pc - 2#16) bound := by
  unfold State.pushing
  cases h : s.par.stackLimit with
  | none => exact .inl ⟨rfl, by simp⟩
  | some bound =>
    by_cases hb : bound ≤ s.stack.length
    · exact .inr ⟨bound, rfl, hb, by simp [hb]⟩
    · refine .inl ⟨by simp [hb], ?_⟩
      rintro b ⟨⟩
      omega

/-! ## Skip and logic flag -/

/-- A conditional skip changes PC alone. -/
theorem State.skipIf_eq (s : State) (b : Bool) : s.skipIf b = s.setPc (if b then s.pc + 2#16 else s.pc) := by
  cases b <;> rfl

/-- The flag of OR, AND and XOR changes VF alone. -/
theorem State.logicFlag_eq (s : State) :
    s.logicFlag = s.setV 0xF (if s.par.q.vfReset then 0#8 else s.reg 0xF) := by
  unfold State.logicFlag
  split
  · rfl
  · simp [State.setV, State.reg]

/-! ## Fetch (R84) -/

/-- A fetch below 0x0FFF reads the two bytes at PC, the first byte high. -/
theorem fetch_of_lt {s : State} (h : s.pc.toNat < 0x0FFF) :
    fetch s = .ok (wordOfBytes (s.mem.read s.pc.toNat) (s.mem.read (s.pc.toNat + 1))) := by
  have none : firstOutOfRange s.pc.toNat 2 = none :=
    (firstOutOfRange_eq_none _ _).mpr (.inr (by unfold memSize; omega))
  simp [fetch, none]

/-- A fetch from 0x0FFF on finds an address that does not exist. -/
theorem fetch_of_ge {s : State} (h : 0x0FFF ≤ s.pc.toNat) : fetch s = .error (max s.pc.toNat memSize) := by
  simp [fetch, firstOutOfRange_of_gt (base := s.pc.toNat) (len := 2) (by omega) (by unfold memSize; omega)]

/-! ## End of a tick (R85) -/

@[simp] theorem finishTick_next (t : State) :
    finishTick (.next t) = .next (if t.fault.isNone then t.strobe else t) := rfl

/-- What the end of a tick leaves: everything but the count of strobes. -/
theorem finishTick_next_eq (t : State) : ∃ n, finishTick (.next t) = .next { t with draws := n } := by
  by_cases h : t.fault.isNone
  · exact ⟨t.draws + 1, by simp [h, State.strobe]⟩
  · exact ⟨t.draws, by simp [h]⟩

end Sys2Proof.Machine
end

