-- ==== Sys2Proof/Laws/Draw.lean ====
section
/-! SUPPORT. What the loops of DRW compute (43_draw.md R125 to R130), cell by cell. -/

namespace Sys2Proof.Machine

/-! ## Cells and logical pixels (R31) -/

/-- The logical coordinate of a physical one. -/
def Resolution.logical (res : Resolution) (k : Nat) : Nat := if res = .high then k else k / 2

/-- A cell after a logical pixel is set (R34). -/
theorem Grid.pixel_fbSet (g : Grid) (res : Resolution) {x y : Nat} (hx : x < res.width) (hy : y < res.height) (b : Bool)
    (r c : Nat) :
    Grid.pixel (fbSet g x y b res) r c =
      if res.logical c = x ∧ res.logical r = y then b else Grid.pixel g r c := by
  cases res with
  | high =>
    simp only [Resolution.width, Resolution.height] at hx hy
    simp [fbSet, Resolution.logical, Grid.pixel_setPixel g hy hx, and_comm]
  | low =>
    simp only [Resolution.width, Resolution.height] at hx hy
    simp only [fbSet, Resolution.logical, Grid.pixel_setPixel _ (show 2 * y + 1 < 64 by omega) (show 2 * x + 1 < 128 by omega),
      Grid.pixel_setPixel _ (show 2 * y + 1 < 64 by omega) (show 2 * x < 128 by omega),
      Grid.pixel_setPixel _ (show 2 * y < 64 by omega) (show 2 * x + 1 < 128 by omega),
      Grid.pixel_setPixel _ (show 2 * y < 64 by omega) (show 2 * x < 128 by omega)]
    have hc : c / 2 = x ↔ c = 2 * x ∨ c = 2 * x + 1 := by omega
    have hr : r / 2 = y ↔ r = 2 * y ∨ r = 2 * y + 1 := by omega
    simp only [reduceCtorEq, if_false, hc, hr]
    split_ifs <;> first | rfl | (exfalso; omega)

/-! ## Landing (R129) -/

/-- Where offset `off` from `start` falls on an axis of `size`: inside, wrapped, or nowhere when clipped. -/
def landsAt (clipping : Bool) (start off size : Nat) : Option Nat :=
  if start + off < size then some (start + off) else if clipping then none else some (start + off - size)

theorem landsAt_lt {clipping : Bool} {start off size p : Nat} (hs : start < size) (ho : off ≤ size)
    (h : landsAt clipping start off size = some p) : p < size := by
  unfold landsAt at h
  split_ifs at h <;> simp only [Option.some.injEq] at h <;> omega

theorem landsAt_inj {clipping : Bool} {start a b size p : Nat} (ha : a < size) (hb : b < size)
    (h1 : landsAt clipping start a size = some p) (h2 : landsAt clipping start b size = some p) : a = b := by
  unfold landsAt at h1 h2
  split_ifs at h1 h2 <;> simp only [Option.some.injEq] at h1 h2 <;> omega

/-- The screen column of sprite column `c`. -/
def SpriteJob.col (j : SpriteJob) (c : Nat) : Option Nat := landsAt j.clipping j.x0 c j.res.width

/-- The screen row of sprite row `r`. -/
def SpriteJob.rowAt (j : SpriteJob) (r : Nat) : Option Nat := landsAt j.clipping j.y0 r j.res.height

theorem blitPixel_eq (j : SpriteJob) (row : BitVec 16) (py : Nat) (acc : Grid × Bool) (c : Nat) :
    blitPixel j row py acc c =
      if row.getLsbD (15 - c) then
        match j.col c with
        | some px => (fbSet acc.1 px py (!fbGet acc.1 px py j.res) j.res, acc.2 || fbGet acc.1 px py j.res)
        | none => acc
      else acc := by
  unfold blitPixel SpriteJob.col landsAt
  simp only []
  split_ifs <;> rfl

theorem blitRow_eq (j : SpriteJob) (rowOf : Nat → BitVec 16) (acc : Blit) (r : Nat) :
    blitRow j rowOf acc r =
      match j.rowAt r with
      | some py => blitOnRow j (rowOf r) py acc
      | none => { acc with clipped := true, rowsHit := acc.rowsHit + 1 } := by
  unfold blitRow SpriteJob.rowAt landsAt
  simp only []
  split_ifs <;> rfl

/-- A sprite's start lies on the screen and the sprite is no wider or higher than it (R126, R128). -/
structure SpriteJob.Fits (j : SpriteJob) : Prop where
  x0 : j.x0 < j.res.width
  y0 : j.y0 < j.res.height
  width : j.width ≤ j.res.width

/-- A logical pixel reads the same in two grids whose cells of that pixel agree. -/
theorem fbGet_congr {g g' : Grid} {res : Resolution} {x y : Nat}
    (h : ∀ r c, res.logical c = x → res.logical r = y → Grid.pixel g r c = Grid.pixel g' r c) :
    fbGet g x y res = fbGet g' x y res := by
  cases res with
  | high => exact h y x rfl rfl
  | low =>
    have e : ∀ a b, a / 2 = y → b / 2 = x → Grid.pixel g a b = Grid.pixel g' a b := fun a b ha hb => h a b (by simpa [Resolution.logical] using hb) (by simpa [Resolution.logical] using ha)
    simp only [fbGet]
    rw [e (2 * y) (2 * x) (by omega) (by omega), e (2 * y) (2 * x + 1) (by omega) (by omega),
      e (2 * y + 1) (2 * x) (by omega) (by omega), e (2 * y + 1) (2 * x + 1) (by omega) (by omega)]

/-- The set bit `c` of a row that lands on screen row `py` finds a pixel that is on. -/
def pixelHit (j : SpriteJob) (row : BitVec 16) (py : Nat) (g : Grid) (c : Nat) : Bool :=
  row.getLsbD (15 - c) && (j.col c).any fun px => fbGet g px py j.res

/-- The inner loop after `k` columns: each cell of a pixel a set bit lands on is the opposite of what that pixel read, every other
cell as before; and the row has collided if a set bit found a pixel on. -/
theorem blitPixels_range (j : SpriteJob) (hj : j.Fits) (row : BitVec 16) {py : Nat} (hpy : py < j.res.height) (g : Grid)
    (k : Nat) (hk : k ≤ j.res.width) :
    (∀ r c, Grid.pixel ((List.range k).foldl (blitPixel j row py) (g, false)).1 r c =
      if j.res.logical r = py ∧ ∃ b, b < k ∧ row.getLsbD (15 - b) = true ∧ j.col b = some (j.res.logical c) then
        !fbGet g (j.res.logical c) py j.res
      else Grid.pixel g r c) ∧
    ((List.range k).foldl (blitPixel j row py) (g, false)).2 = (List.range k).any (pixelHit j row py g) := by
  induction k with
  | zero => simp
  | succ k ih =>
    obtain ⟨ihg, ihh⟩ := ih (by omega)
    simp only [List.range_succ, List.foldl_append, List.foldl_cons, List.foldl_nil, List.any_append, List.any_cons,
      List.any_nil, Bool.or_false, blitPixel_eq, pixelHit]
    set acc := (List.range k).foldl (blitPixel j row py) (g, false) with hacc
    by_cases hb : row.getLsbD (15 - k) = true
    · cases hl : j.col k with
      | none =>
        simp only [hb, if_true, Option.any_none, Bool.and_false, Bool.or_false]
        refine ⟨fun r c => ?_, ihh⟩
        rw [ihg]
        congr 1
        simp only [eq_iff_iff, and_congr_right_iff]
        intro _
        constructor
        · rintro ⟨b, h1, h2, h3⟩; exact ⟨b, by omega, h2, h3⟩
        · rintro ⟨b, h1, h2, h3⟩
          refine ⟨b, ?_, h2, h3⟩
          by_contra hn
          have : b = k := by omega
          subst this; rw [hl] at h3; cases h3
      | some px =>
        have hpx : px < j.res.width := landsAt_lt hj.x0 (by omega) hl
        have fresh : ∀ b, b < k → j.col b ≠ some px := by
          intro b hbk h
          have := landsAt_inj (by omega) (by omega) h hl
          omega
        have same : fbGet acc.1 px py j.res = fbGet g px py j.res := by
          apply fbGet_congr
          intro r c hc hr
          rw [ihg, if_neg]
          rintro ⟨_, b, h1, _, h3⟩
          exact fresh b h1 (by rw [h3, hc])
        simp only [hb, if_true, Option.any_some, Bool.true_and, same, ihh]
        refine ⟨fun r c => ?_, trivial⟩
        rw [Grid.pixel_fbSet _ _ hpx hpy, ihg]
        by_cases hc : j.res.logical c = px
        · by_cases hr : j.res.logical r = py
          · rw [if_pos ⟨hc, hr⟩, if_pos ⟨hr, k, by omega, hb, by rw [hl, hc]⟩, hc]
          · simp [hr]
        · simp only [hc, false_and, if_false]
          congr 1
          simp only [eq_iff_iff, and_congr_right_iff]
          intro _
          constructor
          · rintro ⟨b, h1, h2, h3⟩; exact ⟨b, by omega, h2, h3⟩
          · rintro ⟨b, h1, h2, h3⟩
            refine ⟨b, ?_, h2, h3⟩
            by_contra hn
            have : b = k := by omega
            subst this; rw [hl] at h3; exact hc (by simpa using h3.symm)
    · simp only [hb, if_false, Bool.false_and, Bool.or_false, Bool.false_eq_true]
      refine ⟨fun r c => ?_, ihh⟩
      rw [ihg]
      congr 1
      simp only [eq_iff_iff, and_congr_right_iff]
      intro _
      constructor
      · rintro ⟨b, h1, h2, h3⟩; exact ⟨b, by omega, h2, h3⟩
      · rintro ⟨b, h1, h2, h3⟩
        refine ⟨b, ?_, h2, h3⟩
        by_contra hn
        have : b = k := by omega
        subst this; exact hb h2

/-- Sprite row `r` lands on a screen row and finds a pixel that is on. -/
def rowHit (j : SpriteJob) (rowOf : Nat → BitVec 16) (g : Grid) (r : Nat) : Bool :=
  (j.rowAt r).any fun py => (List.range j.width).any (pixelHit j (rowOf r) py g)

/-- The outer loop after `k` rows. -/
theorem blit_range (j : SpriteJob) (hj : j.Fits) (rowOf : Nat → BitVec 16) (g : Grid) (k : Nat) (hk : k ≤ j.res.height) :
    let out := blit j rowOf k g
    (∀ r c, Grid.pixel out.grid r c =
      if ∃ a, a < k ∧ j.rowAt a = some (j.res.logical r) ∧
          ∃ b, b < j.width ∧ (rowOf a).getLsbD (15 - b) = true ∧ j.col b = some (j.res.logical c) then
        !fbGet g (j.res.logical c) (j.res.logical r) j.res
      else Grid.pixel g r c) ∧
    out.collide = (List.range k).any (rowHit j rowOf g) ∧
    out.clipped = (List.range k).any (fun a => (j.rowAt a).isNone) ∧
    out.rowsHit = (List.range k).countP (fun a => (j.rowAt a).isNone || rowHit j rowOf g a) := by
  induction k with
  | zero => simp [blit]
  | succ k ih =>
    obtain ⟨ihg, ihc, ihl, ihr⟩ := ih (by omega)
    have step : blit j rowOf (k + 1) g = blitRow j rowOf (blit j rowOf k g) k := by
      simp [blit, List.range_succ]
    simp only [step, blitRow_eq, List.range_succ, List.any_append, List.any_cons, List.any_nil, Bool.or_false,
      List.countP_append, List.countP_cons, List.countP_nil, Nat.zero_add]
    set acc := blit j rowOf k g with hacc
    cases hl : j.rowAt k with
    | none =>
      simp only [ihc, ihr, rowHit, hl, Option.any_none, Option.isNone_none, Bool.or_false, Bool.or_true, if_true, and_true]
      intro r c
      rw [ihg]
      congr 1
      simp only [eq_iff_iff]
      constructor
      · rintro ⟨a, h1, h2⟩; exact ⟨a, by omega, h2⟩
      · rintro ⟨a, h1, h2⟩
        refine ⟨a, ?_, h2⟩
        by_contra hn
        have : a = k := by omega
        subst this; rw [hl] at h2; cases h2.1
    | some py =>
      have hpy : py < j.res.height := landsAt_lt hj.y0 (by omega) hl
      obtain ⟨pg, ph⟩ := blitPixels_range j hj (rowOf k) hpy acc.grid j.width hj.width
      have fresh : ∀ a, a < k → j.rowAt a ≠ some py := by
        intro a hak h
        have := landsAt_inj (by omega) (by omega) h hl
        omega
      have same : ∀ px, fbGet acc.grid px py j.res = fbGet g px py j.res := by
        intro px
        apply fbGet_congr
        intro r c hc hr
        rw [ihg, if_neg]
        rintro ⟨a, h1, h2, _⟩
        exact fresh a h1 (by rw [h2, hr])
      have hits : pixelHit j (rowOf k) py acc.grid = pixelHit j (rowOf k) py g := by
        funext c; simp [pixelHit, same]
      simp only [blitOnRow, blitPixels, ph, hits, ihc, ihl, ihr, rowHit, hl, Option.any_some, Option.isNone_some, Bool.or_false, Bool.false_or]
      refine ⟨fun r c => ?_, trivial, trivial, ?_⟩
      · rw [pg, same, ihg]
        by_cases hr : j.res.logical r = py
        · subst hr
          by_cases hx : ∃ b, b < j.width ∧ (rowOf k).getLsbD (15 - b) = true ∧ j.col b = some (j.res.logical c)
          · rw [if_pos ⟨rfl, hx⟩, if_pos ⟨k, by omega, hl, hx⟩]
          · rw [if_neg (fun h => hx h.2)]
            rw [if_neg (by rintro ⟨a, h1, h2, _⟩; exact fresh a h1 h2), if_neg]
            rintro ⟨a, h1, h2, h3⟩
            rcases Nat.lt_succ_iff_lt_or_eq.mp h1 with h | rfl
            · exact fresh a h h2
            · exact hx h3
        · rw [if_neg (fun h => hr h.1)]
          congr 1
          simp only [eq_iff_iff]
          constructor
          · rintro ⟨a, h1, h2⟩; exact ⟨a, by omega, h2⟩
          · rintro ⟨a, h1, h2⟩
            refine ⟨a, ?_, h2⟩
            by_contra hn
            have : a = k := by omega
            subst this; rw [hl] at h2; exact hr (by simpa using h2.1.symm)
      · cases (List.range j.width).any (pixelHit j (rowOf k) py g) <;> simp

end Sys2Proof.Machine
end

