-- ==== Sys2Proof/Laws/Exec.lean ====
section
/-! SUPPORT. All that an instruction can answer, said once: a precise fault, or a state in which the fault, memory's form, the
stack, the keypad and PC are as this file says. -/

namespace Sys2Proof.Machine

/-- What an instruction that completes leaves of the state, field by field, for the fields the invariant speaks of. -/
structure Completes (s t : State) : Prop where
  fault : t.fault = s.fault
  par : t.par = s.par
  speed : t.speed = s.speed
  run : t.run = s.run
  key : t.key = s.key
  pressed : t.pressed = s.pressed
  kdl : t.kdl = true → s.kdl = true
  inputs : t.inputs = s.inputs
  memory : s.mem.wf → t.mem.wf
  stack : t.stack = s.stack ∨ (∃ a, s.stack = a :: t.stack) ∨
    (t.stack = s.pc :: s.stack ∧ ∀ bound, s.par.stackLimit = some bound → s.stack.length < bound)
  pc : t.pc = s.pc ∨ t.pc = s.pc + 2#16 ∨ t.pc = s.pc - 2#16 ∨ t.pc ∈ s.stack ∨ t.pc.toNat ≤ 0x10FE

/-- The faults an instruction raises: DATA_BOUNDS with an address that does not exist, STACK_LIMIT with the bound reached. -/
def Faults (s t : State) : Prop :=
  ∃ c info, t = s.latchFault c (s.pc - 2#16) info ∧
    ((c = .dataBounds ∧ memSize ≤ info) ∨ (c = .stackLimit ∧ s.par.stackLimit = some info ∧ info ≤ s.stack.length))

/-- An instruction that only writes registers, the framebuffer, I, timers, RES, INT or the random input completes. -/
theorem Completes.of_same {s t : State} (h : t = { s with
    v := t.v, i := t.i, dt := t.dt, st := t.st, res := t.res, phys := t.phys, int := t.int, rand := t.rand
    randUsed := t.randUsed, pc := t.pc })
    (hp : t.pc = s.pc ∨ t.pc = s.pc + 2#16 ∨ t.pc = s.pc - 2#16 ∨ t.pc ∈ s.stack ∨ t.pc.toNat ≤ 0x10FE) : Completes s t := by
  rw [h] at hp ⊢
  exact ⟨rfl, rfl, rfl, rfl, rfl, rfl, id, rfl, id, .inl rfl, hp⟩

/-- A checked access completes or faults. -/
theorem State.accessing_answers (s : State) (base len : Nat) {done : State} (h : Completes s done) :
    Completes s (s.accessing base len done) ∨ Faults s (s.accessing base len done) := by
  rcases s.accessing_cases base len done with e | ⟨a, ha, e⟩ <;> rw [e]
  · exact .inl h
  · exact .inr ⟨_, _, rfl, .inl ⟨rfl, ha⟩⟩

theorem addrOf_le (nnn : Addr12) : (addrOf nnn).toNat ≤ 0x0FFF := by
  simp only [addrOf, BitVec.toNat_setWidth]
  have := nnn.isLt
  omega

theorem State.skipIf_pc (s : State) (b : Bool) : (s.skipIf b).pc = s.pc ∨ (s.skipIf b).pc = s.pc + 2#16 := by
  cases b
  · exact .inl rfl
  · exact .inr rfl

theorem State.skipIf_completes (s : State) (b : Bool) : Completes s (s.skipIf b) := by
  refine .of_same (by cases b <;> rfl) ?_
  rcases s.skipIf_pc b with h | h
  · exact .inl h
  · exact .inr (.inl h)

/-- All that an instruction can answer. -/
theorem exec_answers (i : Instr) (s : State) : ∃ t, exec i s = .next t ∧ (Completes s t ∨ Faults s t) := by
  cases i with
  | ret =>
    simp only [exec, execRet]
    split
    · next a rest h =>
      refine ⟨_, rfl, .inl ⟨rfl, rfl, rfl, rfl, rfl, rfl, id, rfl, id, .inr (.inl ⟨a, h⟩), ?_⟩⟩
      exact .inr (.inr (.inr (.inl (by rw [h]; exact List.mem_cons_self))))
    · exact ⟨_, rfl, .inl (.of_same rfl (.inl rfl))⟩
  | sys _ => exact ⟨_, rfl, .inl (.of_same rfl (.inr (.inr (.inl rfl))))⟩
  | jmp nnn => exact ⟨_, rfl, .inl (.of_same rfl (.inr (.inr (.inr (.inr (le_trans (addrOf_le nnn) (by omega)))))))⟩
  | jmpOff nnn =>
    refine ⟨_, rfl, .inl (.of_same rfl (.inr (.inr (.inr (.inr ?_)))))⟩
    simp only [State.setPc_pc, BitVec.toNat_add, BitVec.toNat_setWidth]
    have := addrOf_le nnn
    have := (s.jumpOffset nnn).isLt
    omega
  | call nnn =>
    refine ⟨_, rfl, ?_⟩
    rcases s.pushing_cases ((s.setStack (s.pc :: s.stack)).setPc (addrOf nnn)) with ⟨e, hb⟩ | ⟨bound, hb, hl, e⟩ <;> rw [e]
    · exact .inl ⟨rfl, rfl, rfl, rfl, rfl, rfl, id, rfl, id, .inr (.inr ⟨rfl, hb⟩),
        .inr (.inr (.inr (.inr (le_trans (addrOf_le nnn) (by omega)))))⟩
    · exact .inr ⟨_, _, rfl, .inr ⟨rfl, hb, hl⟩⟩
  | sei _ _ => exact ⟨_, rfl, .inl (s.skipIf_completes _)⟩
  | snei _ _ => exact ⟨_, rfl, .inl (s.skipIf_completes _)⟩
  | ser _ _ => exact ⟨_, rfl, .inl (s.skipIf_completes _)⟩
  | sner _ _ => exact ⟨_, rfl, .inl (s.skipIf_completes _)⟩
  | skp _ => exact ⟨_, rfl, .inl (s.skipIf_completes _)⟩
  | sknp _ => exact ⟨_, rfl, .inl (s.skipIf_completes _)⟩
  | orVV _ _ => exact ⟨_, rfl, .inl (by rw [State.logicFlag_eq]; exact .of_same rfl (.inl rfl))⟩
  | andVV _ _ => exact ⟨_, rfl, .inl (by rw [State.logicFlag_eq]; exact .of_same rfl (.inl rfl))⟩
  | xorVV _ _ => exact ⟨_, rfl, .inl (by rw [State.logicFlag_eq]; exact .of_same rfl (.inl rfl))⟩
  | drw _ _ _ => exact ⟨_, rfl, s.accessing_answers _ _ (.of_same rfl (.inl rfl))⟩
  | ldVM _ => exact ⟨_, rfl, s.accessing_answers _ _ (.of_same rfl (.inl rfl))⟩
  | ldBV _ =>
    exact ⟨_, rfl, s.accessing_answers _ _
      ⟨rfl, rfl, rfl, rfl, rfl, rfl, id, rfl, fun h => Memory.wf_writeBytes h _ _, .inl rfl, .inl rfl⟩⟩
  | ldMV _ =>
    exact ⟨_, rfl, s.accessing_answers _ _
      ⟨rfl, rfl, rfl, rfl, rfl, rfl, id, rfl, fun h => Memory.wf_writeBytes h _ _, .inl rfl, .inl rfl⟩⟩
  | ldVKey _ =>
    simp only [exec, execLdVKey]
    split
    · exact ⟨_, rfl, .inl ⟨rfl, rfl, rfl, rfl, rfl, rfl, fun h => (nomatch h), rfl, id, .inl rfl, .inr (.inr (.inl rfl))⟩⟩
    · split
      · split
        · exact ⟨_, rfl, .inl ⟨rfl, rfl, rfl, rfl, rfl, rfl, fun h => (nomatch h), rfl, id, .inl rfl, .inl rfl⟩⟩
        · exact ⟨_, rfl, .inl (.of_same rfl (.inr (.inr (.inl rfl))))⟩
      · exact ⟨_, rfl, .inl (.of_same rfl (.inr (.inr (.inl rfl))))⟩
  | _ => exact ⟨_, rfl, .inl (.of_same rfl (.inl rfl))⟩

end Sys2Proof.Machine
end

