-- ==== Sys2Proof/Laws/Parameters.lean ====
section
/-! SUPPORT. The sign test of a `HostReal` agrees with the real it names, and what `set_speed` does, said of that real (10_state.md
R45, 60_exceptions.md R169). -/

namespace Sys2Proof

@[simp] theorem HostReal.value_rational (q : Rat) : (HostReal.rational q).value = q := rfl
@[simp] theorem HostReal.value_positive (k : Nat) : (HostReal.positive k).value = (Config.positiveReal k).val := rfl
@[simp] theorem HostReal.value_negative (k : Nat) : (HostReal.negative k).value = -(Config.positiveReal k).val := rfl

@[simp] theorem HostReal.isPositive_iff (f : HostReal) : f.isPositive = true ↔ 0 < f.value := by
  cases f with
  | rational q => simp [isPositive]
  | positive k => simpa [isPositive] using (Config.positiveReal k).property
  | negative k => simpa [isPositive] using le_of_lt (Config.positiveReal k).property

namespace Machine

/-- A factor above 0 becomes SPEED. -/
theorem onSetSpeed_of_pos (s : State) {f : HostReal} (h : 0 < f.value) : s.onSetSpeed f = { s with speed := f } :=
  if_pos (f.isPositive_iff.mpr h)

/-- A factor not above 0 changes nothing. -/
theorem onSetSpeed_of_not_pos (s : State) {f : HostReal} (h : ¬ 0 < f.value) : s.onSetSpeed f = s :=
  if_neg fun h' => h (f.isPositive_iff.mp h')

/-- `set_speed` leaves SPEED a real above 0. -/
theorem onSetSpeed_pos (s : State) (f : HostReal) (h : 0 < s.speed.value) : 0 < (s.onSetSpeed f).speed.value := by
  by_cases hf : 0 < f.value
  · rwa [onSetSpeed_of_pos s hf]
  · rwa [onSetSpeed_of_not_pos s hf]

end Machine

end Sys2Proof
end

