-- ==== Sys2Proof/Laws/PerInstr.lean ====
section
/-! SUPPORT. Statements made per instruction.  EncodesInRow: the word the encoder writes for an instruction matches that
instruction's row of the opcode map (30_encoding.md R88). -/

namespace Sys2Proof.Laws.EncodesInRow

/-- What is stated of an instruction: its encoded word has the fixed bits of its row. -/
def Statement (i : Instr) : Prop := i.rowMatches (encodeWord i)

theorem and_ones4 (c : Nibble) : c &&& 15#4 = c := by
  rw [show (15#4 : Nibble) = BitVec.allOnes 4 from rfl, BitVec.and_allOnes]

theorem and_ones8 (k : Byte) : k &&& 255#8 = k := by
  rw [show (255#8 : Byte) = BitVec.allOnes 8 from rfl, BitVec.and_allOnes]

/-! ## What the masks of the map keep of a word -/

theorem keepC_NNN (c : Nibble) (nnn : Addr12) : asmNNN c nnn &&& 0xF000#16 = asmNNN c 0 := by
  rw [show (0xF000#16 : Word) = asmNNN 0xF 0 from rfl, and_asmNNN]
  simp [and_ones4]

theorem keepC_XKK (c x : Nibble) (kk : Byte) : asmXKK c x kk &&& 0xF000#16 = asmXKK c 0 0 := by
  rw [show (0xF000#16 : Word) = asmXKK 0xF 0 0 from rfl, and_asmXKK]
  simp [and_ones4]

theorem keepC_XYN (c x y n : Nibble) : asmXYN c x y n &&& 0xF000#16 = asmXYN c 0 0 0 := by
  rw [show (0xF000#16 : Word) = asmXYN 0xF 0 0 0 from rfl, and_asmXYN]
  simp [and_ones4]

theorem keepCN (c x y n : Nibble) : asmXYN c x y n &&& 0xF00F#16 = asmXYN c 0 0 n := by
  rw [show (0xF00F#16 : Word) = asmXYN 0xF 0 0 0xF from rfl, and_asmXYN]
  simp [and_ones4]

theorem keepYN (c x y n : Nibble) : asmXYN c x y n &&& 0xF0F0#16 = asmXYN c 0 y 0 := by
  rw [show (0xF0F0#16 : Word) = asmXYN 0xF 0 0xF 0 from rfl, and_asmXYN]
  simp [and_ones4]

theorem keepCKK (c x : Nibble) (kk : Byte) : asmXKK c x kk &&& 0xF0FF#16 = asmXKK c 0 kk := by
  rw [show (0xF0FF#16 : Word) = asmXKK 0xF 0 0xFF from rfl, and_asmXKK]
  simp [and_ones4, and_ones8]

/-! ## One lemma per constructor -/

theorem cls : Statement .cls := rfl
theorem ret : Statement .ret := rfl
theorem high : Statement .high := rfl
theorem low : Statement .low := rfl
theorem scr : Statement .scr := rfl
theorem scl : Statement .scl := rfl
theorem scd (n : Nibble) : Statement (.scd n) := keepYN _ _ _ _
theorem sys (nnn : Addr12) : Statement (.sys nnn) := keepC_NNN _ _
theorem jmp (nnn : Addr12) : Statement (.jmp nnn) := keepC_NNN _ _
theorem call (nnn : Addr12) : Statement (.call nnn) := keepC_NNN _ _
theorem sei (x : Nibble) (kk : Byte) : Statement (.sei x kk) := keepC_XKK _ _ _
theorem snei (x : Nibble) (kk : Byte) : Statement (.snei x kk) := keepC_XKK _ _ _
theorem ser (x y : Nibble) : Statement (.ser x y) := keepCN _ _ _ _
theorem ldVK (x : Nibble) (kk : Byte) : Statement (.ldVK x kk) := keepC_XKK _ _ _
theorem addVK (x : Nibble) (kk : Byte) : Statement (.addVK x kk) := keepC_XKK _ _ _
theorem ldVV (x y : Nibble) : Statement (.ldVV x y) := keepCN _ _ _ _
theorem orVV (x y : Nibble) : Statement (.orVV x y) := keepCN _ _ _ _
theorem andVV (x y : Nibble) : Statement (.andVV x y) := keepCN _ _ _ _
theorem xorVV (x y : Nibble) : Statement (.xorVV x y) := keepCN _ _ _ _
theorem addVV (x y : Nibble) : Statement (.addVV x y) := keepCN _ _ _ _
theorem sub (x y : Nibble) : Statement (.sub x y) := keepCN _ _ _ _
theorem shr (x y : Nibble) : Statement (.shr x y) := keepCN _ _ _ _
theorem subn (x y : Nibble) : Statement (.subn x y) := keepCN _ _ _ _
theorem shl (x y : Nibble) : Statement (.shl x y) := keepCN _ _ _ _
theorem sner (x y : Nibble) : Statement (.sner x y) := keepCN _ _ _ _
theorem ldIA (nnn : Addr12) : Statement (.ldIA nnn) := keepC_NNN _ _
theorem jmpOff (nnn : Addr12) : Statement (.jmpOff nnn) := keepC_NNN _ _
theorem rnd (x : Nibble) (kk : Byte) : Statement (.rnd x kk) := keepC_XKK _ _ _
theorem drw (x y n : Nibble) : Statement (.drw x y n) := keepC_XYN _ _ _ _
theorem skp (x : Nibble) : Statement (.skp x) := keepCKK _ _ _
theorem sknp (x : Nibble) : Statement (.sknp x) := keepCKK _ _ _
theorem ldVDT (x : Nibble) : Statement (.ldVDT x) := keepCKK _ _ _
theorem ldVKey (x : Nibble) : Statement (.ldVKey x) := keepCKK _ _ _
theorem ldDTV (x : Nibble) : Statement (.ldDTV x) := keepCKK _ _ _
theorem ldSTV (x : Nibble) : Statement (.ldSTV x) := keepCKK _ _ _
theorem addIV (x : Nibble) : Statement (.addIV x) := keepCKK _ _ _
theorem ldFV (x : Nibble) : Statement (.ldFV x) := keepCKK _ _ _
theorem ldBV (x : Nibble) : Statement (.ldBV x) := keepCKK _ _ _
theorem ldMV (x : Nibble) : Statement (.ldMV x) := keepCKK _ _ _
theorem ldVM (x : Nibble) : Statement (.ldVM x) := keepCKK _ _ _

end Sys2Proof.Laws.EncodesInRow
end

