-- ==== Sys2Proof/Laws/Step.lean ====
section
/-! SUPPORT. All that a step can do, said once: what a CPU tick runs, and what every other event leaves alone. -/

namespace Sys2Proof.Machine

/-- The tick's test is the claims' CpuReady (R82, R83, R158). -/
theorem State.cpuRuns_iff (s : State) : s.cpuRuns = true ↔ s.CpuReady := by
  simp [State.cpuRuns, State.CpuReady, and_assoc, imp_iff_not_or]

/-- All that a CPU tick can do: nothing, the fault of its fetch, an unmapped word, or one instruction. -/
theorem cpuTick_cases (s : State) :
    (¬s.CpuReady ∧ cpuTick s = .next s) ∨
    (s.CpuReady ∧ 0x0FFF ≤ s.pc.toNat ∧
      cpuTick s = .next (s.latchFault .fetchBounds s.pc (max s.pc.toNat memSize))) ∨
    (s.CpuReady ∧ s.pc.toNat < 0x0FFF ∧ decodeWord s.wordAtPc = .error (.unmapped s.wordAtPc) ∧
      cpuTick s = finishTick (.next (unmappedWord s.wordAtPc (s.setPc (s.pc + 2#16))))) ∨
    ∃ i, s.CpuReady ∧ s.pc.toNat < 0x0FFF ∧ decodeWord s.wordAtPc = .ok i ∧
      cpuTick s = finishTick (exec i (s.setPc (s.pc + 2#16))) := by
  by_cases hr : s.CpuReady
  · have run := s.cpuRuns_iff.mpr hr
    by_cases hpc : s.pc.toNat < 0x0FFF
    · have tick : cpuTick s = executeWord s.wordAtPc (s.setPc (s.pc + 2#16)) := by
        simp [cpuTick, run, fetch_of_lt hpc, State.wordAtPc]
      rw [tick]
      cases hd : decodeWord s.wordAtPc with
      | error e =>
        obtain rfl := decodeWord_error hd
        exact .inr (.inr (.inl ⟨hr, hpc, rfl, by simp only [executeWord, hd]⟩))
      | ok i => exact .inr (.inr (.inr ⟨i, hr, hpc, rfl, by simp only [executeWord, hd]⟩))
    · exact .inr (.inl ⟨hr, by omega, by simp [cpuTick, run, fetch_of_ge (by omega : 0x0FFF ≤ s.pc.toNat)]⟩)
  · have run : s.cpuRuns = false := by simpa using (not_congr s.cpuRuns_iff).mpr hr
    exact .inl ⟨hr, by simp [cpuTick, run]⟩

/-- An unmapped word moves PC, or latches a fault, and changes nothing else (R152). -/
theorem unmappedWord_keeps (op : Word) (s : State) :
    ∃ pc fault, unmappedWord op s = { s with pc, fault } ∧ (pc = s.pc ∨ pc = s.pc - 2#16) := by
  unfold unmappedWord
  split
  · exact ⟨_, _, rfl, .inr rfl⟩
  · exact ⟨_, _, rfl, .inl rfl⟩
  · exact ⟨_, _, rfl, .inr rfl⟩

/-- An event that is no CPU tick, no `reset` and no `load_rom` changes the timers, INT, the keypad, RUN, SPEED and the sound
alone. -/
theorem handleEvent_keeps {e : Event} (s : State) (tick : e ≠ .cpuTick) (reset : e ≠ .reset) (load : ∀ bs, e ≠ .loadRom bs) :
    ∃ t, handleEvent e s = .next t ∧ t = { s with
      dt := t.dt, st := t.st, int := t.int, key := t.key, pressed := t.pressed, kdl := t.kdl, run := t.run
      speed := t.speed, soundEn := t.soundEn, soundOn := t.soundOn } := by
  cases e with
  | cpuTick => exact absurd rfl tick
  | reset => exact absurd rfl reset
  | loadRom bs => exact absurd rfl (load bs)
  | setSound _ => exact ⟨_, rfl, rfl⟩
  | timerTick => exact ⟨_, rfl, by unfold State.onTimerTick; split <;> rfl⟩
  | keyDown _ => exact ⟨_, rfl, by unfold State.onKeyDown; split <;> rfl⟩
  | keyUp _ => exact ⟨_, rfl, by unfold State.onKeyUp; split <;> rfl⟩
  | start => exact ⟨_, rfl, by unfold State.onStart; split <;> rfl⟩
  | pause => exact ⟨_, rfl, by unfold State.onPause; split <;> rfl⟩
  | resume => exact ⟨_, rfl, by unfold State.onResume; split <;> rfl⟩
  | setSpeed _ => exact ⟨_, rfl, by unfold State.onSetSpeed; split <;> rfl⟩

end Sys2Proof.Machine
end

