-- ==== Sys2Proof/Machine/Spelling.lean ====
section
/-! DEFINITION. How an instruction is written in assembly (30_encoding.md R88, R89): the spec's own spelling, with no
pseudo-instructions (R91).  No behaviour depends on it (log 35). -/

namespace Sys2Proof.Machine

/-- A nibble as a hex digit (R89). -/
def hexDigit (n : Nibble) : String :=
  ["0", "1", "2", "3", "4", "5", "6", "7", "8", "9", "A", "B", "C", "D", "E", "F"].getD n.toNat ""

/-- `Vx` (R89). -/
def regName (x : Nibble) : String := "V" ++ hexDigit x

/-- `kk`: two hex digits (R89). -/
def hexByte (kk : Byte) : String := hexDigit (kk.extractLsb' 4 4) ++ hexDigit (kk.extractLsb' 0 4)

/-- `nnn`: three hex digits (R89). -/
def hexAddr (nnn : Addr12) : String :=
  hexDigit (nnn.extractLsb' 8 4) ++ hexDigit (nnn.extractLsb' 4 4) ++ hexDigit (nnn.extractLsb' 0 4)

/-- A name and one operand. -/
def spell1 (name a : String) : String := name ++ " " ++ a

/-- A name and two operands. -/
def spell2 (name a b : String) : String := name ++ " " ++ a ++ ", " ++ b

/-- An instruction's line in assembly (R88's second column, R90). -/
def spelling : Instr → String
  | .cls => "CLS"
  | .ret => "RET"
  | .high => "HIGH"
  | .low => "LOW"
  | .scr => "SCR"
  | .scl => "SCL"
  | .scd n => spell1 "SCD" (hexDigit n)
  | .sys nnn => spell1 "SYS" (hexAddr nnn)
  | .jmp nnn => spell1 "JMP" (hexAddr nnn)
  | .call nnn => spell1 "CALL" (hexAddr nnn)
  | .sei x kk => spell2 "SE" (regName x) (hexByte kk)
  | .snei x kk => spell2 "SNE" (regName x) (hexByte kk)
  | .ser x y => spell2 "SE" (regName x) (regName y)
  | .ldVK x kk => spell2 "LD" (regName x) (hexByte kk)
  | .addVK x kk => spell2 "ADD" (regName x) (hexByte kk)
  | .ldVV x y => spell2 "LD" (regName x) (regName y)
  | .orVV x y => spell2 "OR" (regName x) (regName y)
  | .andVV x y => spell2 "AND" (regName x) (regName y)
  | .xorVV x y => spell2 "XOR" (regName x) (regName y)
  | .addVV x y => spell2 "ADD" (regName x) (regName y)
  | .sub x y => spell2 "SUB" (regName x) (regName y)
  | .shr x y => spell2 "SHR" (regName x) (regName y)
  | .subn x y => spell2 "SUBN" (regName x) (regName y)
  | .shl x y => spell2 "SHL" (regName x) (regName y)
  | .sner x y => spell2 "SNE" (regName x) (regName y)
  | .ldIA nnn => spell2 "LD" "I" (hexAddr nnn)
  | .jmpOff nnn => spell2 "JMP" "V0" (hexAddr nnn)
  | .rnd x kk => spell2 "RND" (regName x) (hexByte kk)
  | .drw x y n => spell2 "DRW" (regName x) (regName y) ++ ", " ++ hexDigit n
  | .skp x => spell1 "SKP" (regName x)
  | .sknp x => spell1 "SKNP" (regName x)
  | .ldVDT x => spell2 "LD" (regName x) "DT"
  | .ldVKey x => spell2 "LD" (regName x) "K"
  | .ldDTV x => spell2 "LD" "DT" (regName x)
  | .ldSTV x => spell2 "LD" "ST" (regName x)
  | .addIV x => spell2 "ADD" "I" (regName x)
  | .ldFV x => spell2 "LD" "F" (regName x)
  | .ldBV x => spell2 "LD" "B" (regName x)
  | .ldMV x => spell2 "LD" "[I]" (regName x)
  | .ldVM x => spell2 "LD" (regName x) "[I]"

end Sys2Proof.Machine
end

