-- ==== Sys2Proof/Tests/Slice0.lean ====
section
/-! SUPPORT. The model's own tests.  Every expected result is taken from spec/95_test_vectors.md (its vector's name is given), from
the opcode map of spec/30_encoding.md R88, or computed by hand from the rule named.  Then one witness for each statement with
hypotheses. -/

namespace Sys2Proof.Machine.Tests

/-! ## Helpers -/

/-- The state after the next step. -/
def after (s : State) : State :=
  match step s with
  | .next t => t
  | _ => s

/-- `s` with a list of registers set. -/
def withRegs (s : State) (rs : List (Nibble × Byte)) : State := rs.foldl (fun s p => s.setV p.1 p.2) s

/-- `s` with bytes stored from `a` on. -/
def withBytes (s : State) (a : Nat) (bs : List Byte) : State := s.setMem (s.mem.writeBytes a bs)

/-- The machine as built with other quirks. -/
def quirky (q : Quirks → Quirks) : State :=
  State.construct { defaultParams .chip8 with q := q (profileQuirks .chip8) }

/-- `s` after the instruction word `op` is run at its PC. -/
def run1 (s : State) (op : Nat) : State := after (s.withFetchWord 16 op)

/-- `s` with one event waiting. -/
def withEvent (s : State) (e : Event) : State := { s with inputs := [e] }

/-- `s` with one cell lit, in high resolution. -/
def lit (r c : Nat) : State := (State.reset.setRes .high).setPhys (Grid.setPixel Grid.blank r c true)

/-- A framebuffer of `s` has exactly these cells lit. -/
def litCells (s : State) : List (Nat × Nat) :=
  (List.range 64).flatMap fun r => if s.phys.toList.getD r 0#128 = 0#128 then [] else
    (List.range 128).filterMap fun c => if Grid.pixel s.phys r c then some (r, c) else none

/-- The logical pixels lit in row `y`, as `(x, y)`. -/
def litRow (s : State) (y : Nat) : List Nat := (List.range s.res.width).filter fun x => fbGet s.phys x y s.res

/-! ## Well-formedness: the one check, SYS -/

theorem test_wf_refuses_claimed_sys :
    (Instr.sys 0x0E0).wf = false ∧ (Instr.sys 0x1EE).wf = false ∧ (Instr.sys 0x0FF).wf = false ∧
    (Instr.sys 0xAFE).wf = false ∧ (Instr.sys 0x0FB).wf = false ∧ (Instr.sys 0x0FC).wf = false ∧
    (Instr.sys 0x0C0).wf = false ∧ (Instr.sys 0x3CF).wf = false := by decide

theorem test_wf_accepts_other_sys :
    (Instr.sys 0x000).wf = true ∧ (Instr.sys 0x0FD).wf = true ∧ (Instr.sys 0xE0E).wf = true ∧ (Instr.sys 0xC00).wf = true := by
  decide

/-! ## Decoding: a word of every row, written out from R88's match and fields -/

theorem test_decode_group0 :
    decodeTableWord 16 0x00E0 = some .cls ∧ decodeTableWord 16 0x00EE = some .ret ∧ decodeTableWord 16 0x00FF = some .high ∧
    decodeTableWord 16 0x00FE = some .low ∧ decodeTableWord 16 0x00FB = some .scr ∧ decodeTableWord 16 0x00FC = some .scl ∧
    decodeTableWord 16 0x00C9 = some (.scd 9) ∧ decodeTableWord 16 0x0A5D = some (.sys 0xA5D) := by decide

theorem test_decode_flow :
    decodeTableWord 16 0x1A5C = some (.jmp 0xA5C) ∧ decodeTableWord 16 0x2A5C = some (.call 0xA5C) ∧
    decodeTableWord 16 0x3A5C = some (.sei 0xA 0x5C) ∧ decodeTableWord 16 0x4A5C = some (.snei 0xA 0x5C) ∧
    decodeTableWord 16 0x5A50 = some (.ser 0xA 0x5) ∧ decodeTableWord 16 0x9A50 = some (.sner 0xA 0x5) ∧
    decodeTableWord 16 0xBA5C = some (.jmpOff 0xA5C) := by decide

theorem test_decode_arithmetic :
    decodeTableWord 16 0x6A5C = some (.ldVK 0xA 0x5C) ∧ decodeTableWord 16 0x7A5C = some (.addVK 0xA 0x5C) ∧
    decodeTableWord 16 0x8A50 = some (.ldVV 0xA 0x5) ∧ decodeTableWord 16 0x8A51 = some (.orVV 0xA 0x5) ∧
    decodeTableWord 16 0x8A52 = some (.andVV 0xA 0x5) ∧ decodeTableWord 16 0x8A53 = some (.xorVV 0xA 0x5) ∧
    decodeTableWord 16 0x8A54 = some (.addVV 0xA 0x5) ∧ decodeTableWord 16 0x8A55 = some (.sub 0xA 0x5) ∧
    decodeTableWord 16 0x8A56 = some (.shr 0xA 0x5) ∧ decodeTableWord 16 0x8A57 = some (.subn 0xA 0x5) ∧
    decodeTableWord 16 0x8A5E = some (.shl 0xA 0x5) ∧ decodeTableWord 16 0xCA5C = some (.rnd 0xA 0x5C) := by decide

theorem test_decode_draw_index_memory :
    decodeTableWord 16 0xDA5C = some (.drw 0xA 0x5 0xC) ∧ decodeTableWord 16 0xAA5C = some (.ldIA 0xA5C) ∧
    decodeTableWord 16 0xFA1E = some (.addIV 0xA) ∧ decodeTableWord 16 0xFA29 = some (.ldFV 0xA) ∧
    decodeTableWord 16 0xFA33 = some (.ldBV 0xA) ∧ decodeTableWord 16 0xFA55 = some (.ldMV 0xA) ∧
    decodeTableWord 16 0xFA65 = some (.ldVM 0xA) := by decide

theorem test_decode_keys_timers :
    decodeTableWord 16 0xEA9E = some (.skp 0xA) ∧ decodeTableWord 16 0xEAA1 = some (.sknp 0xA) ∧
    decodeTableWord 16 0xFA07 = some (.ldVDT 0xA) ∧ decodeTableWord 16 0xFA0A = some (.ldVKey 0xA) ∧
    decodeTableWord 16 0xFA15 = some (.ldDTV 0xA) ∧ decodeTableWord 16 0xFA18 = some (.ldSTV 0xA) := by decide

/-- R86: words no row claims are rejected, by name. -/
theorem test_decode_rejects :
    decodeWord 0x5121 = .error (.unmapped 0x5121) ∧ decodeWord 0x912F = .error (.unmapped 0x912F) ∧
    decodeWord 0x8AB8 = .error (.unmapped 0x8AB8) ∧ decodeWord 0x8ABF = .error (.unmapped 0x8ABF) ∧
    decodeWord 0xE09F = .error (.unmapped 0xE09F) ∧ decodeWord 0xF075 = .error (.unmapped 0xF075) ∧
    decode [0x12] = .error (.truncated 1) := by decide

/-- R92's column of spellings. -/
theorem test_spelling : let sp (w : Nat) := (decodeTableWord 16 w).map spelling
    sp 0x00C4 = some "SCD 4" ∧ sp 0x0123 = some "SYS 123" ∧ sp 0x1ABC = some "JMP ABC" ∧ sp 0x3A7F = some "SE VA, 7F" ∧
    sp 0xB2F0 = some "JMP V0, 2F0" ∧ sp 0xD125 = some "DRW V1, V2, 5" ∧ sp 0xF265 = some "LD V2, [I]" := by decide

/-- The words the encoder writes, from the same table. -/
theorem test_encode :
    encode (.drw 0xA 0x5 0xC) = [0xDA, 0x5C] ∧ encode (.call 0x123) = [0x21, 0x23] ∧ encode (.ldMV 0x7) = [0xF7, 0x55] ∧
    encode .cls = [0x00, 0xE0] ∧ encode (.shl 0x1 0x2) = [0x81, 0x2E] := by decide

/-! ## Group 0x0 -/

/-- G0-1. -/
theorem test_cls : let t := run1 (lit 3 5) 0x00E0
    litCells t = [] ∧ t.res = .high ∧ t.int = false ∧ t.pc = 0x202 ∧ t.draws = 1 := by decide

/-- G0-2 and G0-3. -/
theorem test_ret : let t := run1 (State.reset.setStack [0x20A]) 0x00EE
    t.pc = 0x20A ∧ t.stack = [] ∧ (run1 State.reset 0x00EE).pc = 0x202 ∧ (run1 State.reset 0x00EE).fault = none := by decide

/-- G0-4 and G0-5. -/
theorem test_high : let t := run1 ((lit 3 5).setRes .low) 0x00FF
    t.res = .high ∧ litCells t = [] ∧ litCells (run1 (lit 3 5) 0x00FF) = [] := by decide

/-- R97. -/
theorem test_low : let t := run1 (lit 3 5) 0x00FE
    t.res = .low ∧ litCells t = [] := by decide

/-- G0-6 and G0-7. -/
theorem test_scr : litCells (run1 (lit 0 0) 0x00FB) = [(0, 4)] ∧ litCells (run1 (lit 0 125) 0x00FB) = [] := by decide

/-- G0-8. -/
theorem test_scl : litCells (run1 (lit 5 10) 0x00FC) = [(5, 6)] ∧ litCells (run1 (lit 5 3) 0x00FC) = [] := by decide

/-- G0-9, G0-10 and G0-11. -/
theorem test_scd : litCells (run1 (lit 0 7) 0x00C3) = [(3, 7)] ∧ litCells (run1 (lit 62 0) 0x00C3) = [] ∧
    litCells (run1 (lit 62 0) 0x00C0) = [(62, 0)] := by decide

/-- G0-12 and G0-13: LOWRES_SCROLL. -/
theorem test_scroll_policies :
    let s (p : LowresScroll) : State :=
      (State.construct { defaultParams .chip8 with lowresScroll := p }).setPhys (fbSet Grid.blank 0 0 true .low)
    litCells (run1 (s .logical) 0x00FB) = [(0, 8), (0, 9), (1, 8), (1, 9)] ∧
    litCells (run1 (s .noop) 0x00FB) = [(0, 0), (0, 1), (1, 0), (1, 1)] ∧
    litCells (run1 (s .physical) 0x00FB) = [(0, 4), (0, 5), (1, 4), (1, 5)] := by decide

/-- G0-16 and G0-18. -/
theorem test_sys : let t := run1 (State.reset.setPc 0x300) 0x0000
    t.pc = 0x300 ∧ t.draws = 1 ∧ (run1 State.reset 0x00FD).pc = 0x200 := by decide

/-! ## Control flow -/

/-- F-1 and F-2. -/
theorem test_jmp : (run1 State.reset 0x1228).pc = 0x228 ∧ (run1 State.reset 0x1201).pc = 0x201 := by decide

/-- F-5. -/
theorem test_call : let t := run1 (State.reset.setPc 0x204) 0x2300
    t.stack = [0x206] ∧ t.pc = 0x300 := by decide

/-- F-6 and F-7. -/
theorem test_sei : (run1 (withRegs State.reset [(3, 0x7F)]) 0x337F).pc = 0x204 ∧
    (run1 (withRegs State.reset [(3, 0x7E)]) 0x337F).pc = 0x202 := by decide

/-- F-8. -/
theorem test_snei : (run1 State.reset 0x4001).pc = 0x204 ∧ (run1 State.reset 0x4000).pc = 0x202 := by decide

/-- F-9 and F-10. -/
theorem test_ser : (run1 (withRegs State.reset [(1, 9), (2, 9)]) 0x5120).pc = 0x204 ∧
    (run1 (withRegs State.reset [(1, 9), (2, 8)]) 0x5120).pc = 0x202 ∧ (run1 State.reset 0x5110).pc = 0x204 := by decide

/-- F-11 and F-12. -/
theorem test_sner : (run1 (withRegs State.reset [(1, 9), (2, 8)]) 0x9120).pc = 0x204 ∧
    (run1 State.reset 0x9110).pc = 0x202 := by decide

/-- Vector 1.6, and F-13. -/
theorem test_jmpOff :
    (run1 (withRegs (quirky id) [(0, 0x10), (3, 0x02)]) 0xB3FF).pc = 0x40F ∧
    (run1 (withRegs (quirky fun q => { q with jumping := true }) [(0, 0x10), (3, 0x02)]) 0xB3FF).pc = 0x401 ∧
    (run1 (withRegs (quirky id) [(0, 0xFF)]) 0xBFFF).pc = 0x10FE := by decide

/-! ## Registers and arithmetic -/

/-- A-1. -/
theorem test_ldVK : (run1 State.reset 0x6A2F).reg 0xA = 0x2F ∧ (run1 State.reset 0x6A2F).pc = 0x202 := by decide

/-- A-2 and A-3. -/
theorem test_addVK : let t := run1 (withRegs State.reset [(1, 0xF0), (0xF, 7)]) 0x7120
    t.reg 1 = 0x10 ∧ t.reg 0xF = 7 ∧ (run1 (withRegs State.reset [(0xF, 0xFF)]) 0x7F01).reg 0xF = 0 := by decide

/-- A-4. -/
theorem test_ldVV : let t := run1 (withRegs State.reset [(2, 0x33)]) 0x8120
    t.reg 1 = 0x33 ∧ t.reg 2 = 0x33 := by decide

/-- A-5 and A-7, VF_RESET set. -/
theorem test_or_vfReset : let t := run1 (withRegs State.reset [(1, 0x0C), (2, 0x30), (0xF, 5)]) 0x8121
    t.reg 1 = 0x3C ∧ t.reg 0xF = 0 ∧ (run1 (withRegs State.reset [(0xF, 0x0C), (2, 0x30)]) 0x8F21).reg 0xF = 0 := by decide

/-- A-6 and A-8, VF_RESET clear. -/
theorem test_or_vfKept : let s := quirky fun q => { q with vfReset := false }
    let t := run1 (withRegs s [(1, 0x0C), (2, 0x30), (0xF, 5)]) 0x8121
    t.reg 1 = 0x3C ∧ t.reg 0xF = 5 ∧ (run1 (withRegs s [(0xF, 0x0C), (2, 0x30)]) 0x8F21).reg 0xF = 0x3C := by decide

/-- A-9. -/
theorem test_and : (run1 (withRegs State.reset [(1, 0x0F), (2, 0x3C)]) 0x8122).reg 1 = 0x0C := by decide

/-- A-10, and R117 by hand: 0x5A xor 0x0F. -/
theorem test_xor : (run1 (withRegs State.reset [(1, 0x5A)]) 0x8113).reg 1 = 0 ∧
    (run1 (withRegs State.reset [(1, 0x5A), (2, 0x0F)]) 0x8123).reg 1 = 0x55 := by decide

/-- Vector 1.4. -/
theorem test_addVV : let t (a b : Byte) := run1 (withRegs State.reset [(1, a), (2, b)]) 0x8124
    (t 0xFF 0x01).reg 1 = 0x00 ∧ (t 0xFF 0x01).reg 0xF = 1 ∧ (t 0x80 0x7F).reg 1 = 0xFF ∧ (t 0x80 0x7F).reg 0xF = 0 := by
  decide

/-- A-11 and A-12: VF as destination and as source. -/
theorem test_addVV_vf : (run1 (withRegs State.reset [(0xF, 0xFF), (1, 0x01)]) 0x8F14).reg 0xF = 1 ∧
    (run1 (withRegs State.reset [(1, 0x10), (0xF, 0xF0)]) 0x81F4).reg 1 = 0 := by decide

/-- Vector 1.4 and A-13. -/
theorem test_sub : let t (a b : Byte) := run1 (withRegs State.reset [(1, a), (2, b)]) 0x8125
    (t 5 3).reg 1 = 2 ∧ (t 5 3).reg 0xF = 1 ∧ (t 3 5).reg 1 = 0xFE ∧ (t 3 5).reg 0xF = 0 ∧ (t 7 7).reg 0xF = 1 ∧
    (run1 (withRegs State.reset [(0xF, 5), (1, 3)]) 0x8F15).reg 0xF = 1 := by decide

/-- A-14 and A-15. -/
theorem test_subn : let t (a b : Byte) := run1 (withRegs State.reset [(1, a), (2, b)]) 0x8127
    (t 3 5).reg 1 = 2 ∧ (t 3 5).reg 0xF = 1 ∧ (t 5 3).reg 1 = 0xFE ∧ (t 5 3).reg 0xF = 0 := by decide

/-- Vector 1.5, A-16 and A-17. -/
theorem test_shr : let t (b : Bool) := run1 (withRegs (quirky fun q => { q with shifting := b }) [(0, 0x81), (1, 0x04)]) 0x8016
    (t false).reg 0 = 0x02 ∧ (t false).reg 0xF = 0 ∧ (t true).reg 0 = 0x40 ∧ (t true).reg 0xF = 1 ∧
    (run1 (withRegs (quirky fun q => { q with shifting := true }) [(0xF, 3)]) 0x8F06).reg 0xF = 1 := by decide

/-- Vector 1.5. -/
theorem test_shl : let t (b : Bool) := run1 (withRegs (quirky fun q => { q with shifting := b }) [(0, 0x81), (1, 0x04)]) 0x801E
    (t false).reg 0 = 0x08 ∧ (t false).reg 0xF = 0 ∧ (t true).reg 0 = 0x02 ∧ (t true).reg 0xF = 1 := by decide

/-- A-19. -/
theorem test_rnd : let t := run1 { State.reset with rand := [0xA7, 0x11] } 0xC30F
    t.reg 3 = 0x07 ∧ t.rand = [0x11] := by decide

/-! ## Drawing -/

/-- Vector 1.7 and D-1: glyph 0 at (0, 0). -/
theorem test_drw_glyph : let t := run1 (State.reset.setI 0x050) 0xD125
    litRow t 0 = [0, 1, 2, 3] ∧ litRow t 1 = [0, 3] ∧ litRow t 2 = [0, 3] ∧ litRow t 3 = [0, 3] ∧ litRow t 4 = [0, 1, 2, 3] ∧
    litRow t 5 = [] ∧ t.reg 0xF = 0 ∧ t.int = true ∧ t.pc = 0x202 := by decide

/-- R130 and R134 by hand: the first row of glyph 0 over a lit pixel (0, 0), which goes off and collides. -/
theorem test_drw_collision : let t := run1 ((State.reset.setPhys (fbSet Grid.blank 0 0 true .low)).setI 0x050) 0xD121
    litRow t 0 = [1, 2, 3] ∧ t.reg 0xF = 1 := by decide

/-- Vector 1.8: clipped or wrapped at the right edge. -/
theorem test_drw_edge :
    let t (b : Bool) :=
      run1 (withRegs ((withBytes (quirky fun q => { q with clipping := b }) 0x300 [0xFF]).setI 0x300) [(1, 60)]) 0xD121
    litRow (t true) 0 = [60, 61, 62, 63] ∧ litRow (t false) 0 = [0, 1, 2, 3, 60, 61, 62, 63] ∧ (t true).reg 0xF = 0 := by decide

/-- D-9: a row clipped at the bottom in HIGH. -/
theorem test_drw_bottom :
    let t (r : HiresVfRule) :=
      run1 (withRegs ((withBytes ((State.construct { defaultParams .chip8 with hiresVf := r }).setRes .high) 0x300
        [0x80, 0x80]).setI 0x300) [(2, 63)]) 0xD122
    litCells (t .collideOrBottomClip) = [(63, 0)] ∧ (t .collideOrBottomClip).reg 0xF = 1 ∧
    (t .collideOnly).reg 0xF = 0 ∧ (t .rowCount).reg 0xF = 1 := by decide

/-- D-12: a sprite byte outside memory. -/
theorem test_drw_fault : let t := run1 (State.reset.setI 0xFFE) 0xD123
    t.fault = some { cause := .dataBounds, pc := 0x200, info := 0x1000 } ∧ t.pc = 0x200 ∧ t.int = false ∧ litCells t = [] ∧
    t.draws = 0 := by decide

/-- R126 and R127 by hand: a 16 by 16 sprite in HIGH, whose first row is 80 01 and whose second is 00 80. -/
theorem test_drw_big :
    let t := run1 ((withBytes (State.reset.setRes .high) 0x300 [0x80, 0x01, 0x00, 0x80]).setI 0x300) 0xD120
    litRow t 0 = [0, 15] ∧ litRow t 1 = [8] ∧ litRow t 2 = [] := by decide

/-! ## Index register and memory -/

/-- M-1. -/
theorem test_ldIA : (run1 (State.reset.setI 0xFFFF) 0xA2F0).i = 0x02F0 := by decide

/-- M-2 and M-4. -/
theorem test_addIV : let t (i : Word) (b : Byte) := run1 (withRegs (State.reset.setI i) [(2, b)]) 0xF21E
    (t 0x0FFE 3).i = 0x1001 ∧ (t 0x0FFE 3).reg 0xF = 1 ∧ (t 0xFFFF 1).i = 0 ∧ (t 0xFFFF 1).reg 0xF = 1 ∧
    (t 0x0300 0x10).i = 0x0310 ∧ (t 0x0300 0x10).reg 0xF = 0 := by decide

/-- M-6 and M-7. -/
theorem test_ldFV : (run1 (withRegs State.reset [(0xA, 0x0A)]) 0xFA29).i = 0x082 ∧
    (run1 (withRegs State.reset [(1, 0x10)]) 0xF129).i = 0x0A0 := by decide

/-- M-8 and M-10. -/
theorem test_ldBV : let t := run1 (withRegs (State.reset.setI 0x300) [(0, 0xFE)]) 0xF033
    t.mem.read 0x300 = 2 ∧ t.mem.read 0x301 = 5 ∧ t.mem.read 0x302 = 4 ∧ t.i = 0x300 ∧
    (run1 (withRegs (State.reset.setI 0xFFE) [(0, 7)]) 0xF033).fault =
      some { cause := .dataBounds, pc := 0x200, info := 0x1000 } := by decide

/-- M-11 and M-12. -/
theorem test_ldMV :
    let t (b : Bool) :=
      run1 (withRegs ((quirky fun q => { q with memory := b }).setI 0x400) [(0, 1), (1, 2), (2, 3), (3, 4)]) 0xF255
    (t true).mem.read 0x400 = 1 ∧ (t true).mem.read 0x402 = 3 ∧ (t true).mem.read 0x403 = 0 ∧ (t true).i = 0x403 ∧
    (t false).mem.read 0x401 = 2 ∧ (t false).i = 0x400 := by decide

/-- M-13 and M-16. -/
theorem test_ldVM : let t := run1 ((withBytes State.reset 0x400 [1, 2, 3, 4]).setI 0x400) 0xF265
    t.reg 0 = 1 ∧ t.reg 2 = 3 ∧ t.reg 3 = 0 ∧ t.i = 0x403 := by decide

/-- Vector 1.1: the font, and R63: 0 elsewhere. -/
theorem test_font : let m := State.reset.mem
    m.read 0x050 = 0xF0 ∧ m.read 0x051 = 0x90 ∧ m.read 0x084 = 0xF0 ∧ m.read 0x085 = 0x90 ∧ m.read 0x09F = 0x80 ∧
    m.read 0x09E = 0x80 ∧ m.read 0x09D = 0xF0 ∧ m.read 0x04F = 0 ∧ m.read 0x0A0 = 0 := by decide

/-- Memory stays canonical: a byte written back to what an unlisted address reads as is not listed. -/
theorem test_mem_canonical :
    Memory.write (Memory.write [] 0x300 7) 0x300 0 = [] ∧ Memory.write (Memory.write [] 0x301 7) 0x300 1 = [(0x300, 1), (0x301, 7)] := by
  decide

/-! ## Keypad and timers -/

/-- K-1 and K-3. -/
theorem test_skp : let s := after (withEvent State.reset (.keyDown 5))
    (run1 (withRegs s [(1, 5)]) 0xE19E).pc = 0x204 ∧ (run1 (withRegs s [(1, 0x15)]) 0xE19E).pc = 0x202 := by decide

/-- K-4, and K-2 for SKNP. -/
theorem test_sknp : (run1 State.reset 0xE1A1).pc = 0x204 ∧
    (run1 (withRegs (after (withEvent State.reset (.keyDown 5))) [(1, 5)]) 0xE1A1).pc = 0x202 := by decide

/-- K-8. -/
theorem test_ldVDT : (run1 (State.reset.setDt 0x3C) 0xF307).reg 3 = 0x3C := by decide

/-- Vector 1.9: armed, waiting, then complete. -/
theorem test_ldVKey : let armed := run1 State.reset 0xF30A
    let down := after (withEvent armed (.keyDown 7))
    armed.pc = 0x200 ∧ armed.kw = true ∧ (after armed).pc = 0x200 ∧ (after down).reg 3 = 7 ∧ (after down).pc = 0x202 ∧
    (after down).kw = false ∧ (after down).kdl = false := by decide

/-- K-7: a key held before the wait does not complete it. -/
theorem test_ldVKey_held : let s := after (withEvent State.reset (.keyDown 3))
    let armed := run1 s 0xF30A
    (after armed).pc = 0x200 ∧ (after armed).reg 3 = 0 := by decide

/-- Vector 1.12's first step. -/
theorem test_ldDTV : (run1 (withRegs State.reset [(0, 10)]) 0xF015).dt = 10 := by decide

/-- K-10: SOUND_ON is not touched by the instruction. -/
theorem test_ldSTV : let t := run1 (withRegs State.reset [(1, 7)]) 0xF118
    t.st = 7 ∧ t.soundOn = false := by decide

/-! ## Events -/

/-- K-9, K-10 and K-11, after the ST write; K-15. -/
theorem test_timerTick : let s (st : Byte) (en : Bool) : State := { State.reset with st, soundEn := en, run := .running, int := true }
    let t (st : Byte) (en : Bool) := after (withEvent (s st en) .timerTick)
    (t 1 true).st = 0 ∧ (t 1 true).soundOn = false ∧ (t 7 true).st = 6 ∧ (t 7 true).soundOn = true ∧
    (t 5 false).st = 4 ∧ (t 5 false).soundOn = false ∧ (t 0 true).st = 0 ∧ (t 7 true).int = false := by decide

/-- K-12 and K-14. -/
theorem test_timerTick_lifecycle : let t (r : Lifecycle) := after (withEvent { State.reset with run := r, dt := 5 } .timerTick)
    (t .paused).dt = 4 ∧ (t .idle).dt = 5 := by decide

/-- K-2, K-5 and K-6. -/
theorem test_keypad : let s := after (withEvent State.reset (.keyDown 5))
    let t := after (withEvent s (.keyUp 5))
    s.key = some 5 ∧ s.pressed = true ∧ s.kdl = true ∧ t.key = some 5 ∧ t.pressed = false ∧
    (after (withEvent s (.keyDown 7))).key = some 7 ∧ (after (withEvent s (.keyDown 16))).key = some 5 := by decide

/-- X-6 and X-7; R168, R170. -/
theorem test_control : let s (r : Lifecycle) (e : Event) := after (withEvent { State.reset with run := r } e)
    (s .idle .start).run = .running ∧ (s .running .start).run = .running ∧ (s .idle .pause).run = .idle ∧
    (s .running .pause).run = .paused ∧ (s .paused .resume).run = .running ∧ (s .paused .start).run = .paused ∧
    (s .idle (.setSound false)).soundEn = false := by decide

/-- X-11; R169: rational factors, and free reals above and below 0. -/
theorem test_set_speed : let s (f : HostReal) := (after (withEvent State.reset (.setSpeed f))).speed
    s (.rational 0) = .rational 1 ∧ s (.rational (-2)) = .rational 1 ∧ s (.rational 2) = .rational 2 ∧
    s (.positive 3) = .positive 3 ∧ s (.negative 3) = .rational 1 := by decide

/-- Vector 1.2, X-5 and X-13. -/
theorem test_reset_event :
    let s := withBytes (withBytes State.reset 0x300 [0xAB]) 0x040 [0x77]
    let t := after (withEvent { s with
      key := some 4, pressed := true, run := .running, pc := 0x300
      fault := some { cause := .unmapped, pc := 0x300, info := 0x5121 } } .reset)
    t.mem.read 0x300 = 0 ∧ t.mem.read 0x040 = 0x77 ∧ t.mem.read 0x050 = 0xF0 ∧ t.pc = 0x200 ∧ t.run = .idle ∧
    t.fault = none ∧ t.key = some 4 ∧ t.pressed = true := by decide

set_option maxRecDepth 8000 in
/-- R183. -/
theorem test_load_rom : let s := after (withEvent State.reset (.loadRom [0x60, 0x05]))
    s.loadOk = true ∧ s.mem = [(0x200, 0x60), (0x201, 0x05)] ∧ s.run = .idle := by decide

/-- R186: a loaded program runs from the first tick after `start`. -/
theorem test_start_runs : let s := after (withEvent (withBytes State.reset 0x200 [0x60, 0x05]) .start)
    (after s).reg 0 = 5 ∧ (after s).pc = 0x202 := by decide

/-- X-1, X-2 and X-3. -/
theorem test_unmapped : let t (p : UnmappedPolicy) := run1 (State.construct { defaultParams .chip8 with unmappedPolicy := p }) 0x5121
    (t .fault).fault = some { cause := .unmapped, pc := 0x200, info := 0x5121 } ∧ (t .fault).pc = 0x200 ∧ (t .fault).draws = 0 ∧
    (t .nopAdvance).pc = 0x202 ∧ (t .nopAdvance).draws = 1 ∧ (t .nopStall).pc = 0x200 ∧ (t .nopStall).draws = 1 := by decide

/-- F-4 and F-13: the fetch past the end of memory. -/
theorem test_fetch_bounds : let t (a : Word) := after { State.reset with pc := a, run := .running }
    (t 0xFFF).fault = some { cause := .fetchBounds, pc := 0xFFF, info := 0x1000 } ∧ (t 0xFFF).pc = 0xFFF ∧
    (t 0x10FE).fault = some { cause := .fetchBounds, pc := 0x10FE, info := 0x10FE } := by decide

/-- D-14 and K-13: ticks that do nothing. -/
theorem test_skipped_ticks :
    let s := withBytes State.reset 0x200 [0x60, 0x05]
    (after { s with run := .running, int := true }).reg 0 = 0 ∧ (after { s with run := .running }).reg 0 = 5 ∧
    (after { s with run := .paused }).pc = 0x200 := by decide

/-! ## Witnesses: for each statement with hypotheses, states and operands that meet them, clause by clause and at the ends of the
ranges -/

/-- A machine about to run the word `op` at 0x200. -/
def about (op : Nat) : State := State.reset.withFetchWord 16 op

/-- A machine with parameters `f` of the default ones, about to run the word `op` at 0x200. -/
def aboutWith (f : Params → Params) (op : Nat) : State := (State.construct (f (defaultParams .chip8))).withFetchWord 16 op

theorem about_ready (f : Params → Params) (op : Nat) :
    (aboutWith f op).AboutToTick ∧ (aboutWith f op).CpuReady ∧ (aboutWith f op).pc.toNat < 0x0FFF :=
  ⟨rfl, ⟨rfl, rfl, by simp [aboutWith, State.withFetchWord, State.withWordAtPc, State.construct]⟩, by
    simp [aboutWith, State.withFetchWord, State.withWordAtPc, State.construct, progBase, memSize]⟩

/-- A machine running at address `a`. -/
def runningAt (a : Word) : State := { State.reset with pc := a, run := .running }

theorem runningAt_ready (a : Word) : (runningAt a).AboutToTick ∧ (runningAt a).CpuReady :=
  ⟨rfl, rfl, rfl, by simp [runningAt, State.reset, State.construct]⟩

/-- A machine with a depth bound of 1 and `k` on its stack. -/
def bounded (k : List Word) : State := (State.construct { defaultParams .chip8 with stackLimit := some 1 }).setStack k

/-- A machine with a latched fault, and `e` waiting. -/
def latched (e : List Event) : State :=
  { State.reset with run := .running, fault := some { cause := .unmapped, pc := 0x200, info := 0x5121 }, inputs := e }

/-- Words that meet the premises of the encoding clauses. -/
theorem witness_Encodes :
    (0x05E0#16 &&& 0xF0FF#16 = 0x00E0#16) ∧ (0x1FFF#16 &&& 0xF000#16 = 0x1000#16) ∧ (0x3F00#16 &&& 0xF000#16 = 0x3000#16) ∧
    (0x40FF#16 &&& 0xF000#16 = 0x4000#16) ∧ (0x5FF0#16 &&& 0xF00F#16 = 0x5000#16) ∧ (0x9010#16 &&& 0xF00F#16 = 0x9000#16) ∧
    (0x6FFF#16 &&& 0xF000#16 = 0x6000#16) ∧ (0x8F00#16 &&& 0xF00F#16 = 0x8000#16) ∧ (0x7001#16 &&& 0xF000#16 = 0x7000#16) ∧
    (0x8F01#16 &&& 0xF00F#16 = 0x8001#16) ∧ (0x80F2#16 &&& 0xF00F#16 = 0x8002#16) ∧ (0x8FF3#16 &&& 0xF00F#16 = 0x8003#16) ∧
    (0xA000#16 &&& 0xF000#16 = 0xA000#16) ∧
    (0x0FFD#16 &&& 0xF000#16 = 0x0000#16 ∧ claimedLowByte (BitVec.extractLsb' 0 8 (0x0FFD#16)) = false) := by decide

theorem witness_RetPopsOrDoesNothing :
    (State.reset.setStack [0x20A]).stack = 0x20A :: [] ∧ State.reset.stack = [] := by decide

/-- A CPU tick that fetches a SYS, a timer tick at one, and a host command at one (and, at the end of memory, a PC no word can be
fetched at, where what stands at PC reads as 0000). -/
theorem witness_SysStalls :
    ((aboutWith id 0x0FFD).AboutToTick ∧ (aboutWith id 0x0FFD).CpuReady ∧ (aboutWith id 0x0FFD).pc.toNat < 0x0FFF ∧
      decodeWord (aboutWith id 0x0FFD).wordAtPc = .ok (.sys 0xFFD)) ∧
    (let s := { aboutWith id 0x0000 with inputs := [.timerTick] }
     s.run = .running ∧ decodeWord s.wordAtPc = .ok (.sys 0) ∧ s.inputs = .timerTick :: []) ∧
    (let s := { aboutWith id 0x0000 with inputs := [.pause] }
     decodeWord s.wordAtPc = .ok (.sys 0) ∧ s.nextEvent ≠ .reset ∧ ∀ bs, s.nextEvent ≠ .loadRom bs) ∧
    (decodeWord (runningAt 0x1000).wordAtPc = .ok (.sys 0) ∧ (runningAt 0x1000).nextEvent ≠ .reset ∧
      ∀ bs, (runningAt 0x1000).nextEvent ≠ .loadRom bs) :=
  ⟨⟨(about_ready id _).1, (about_ready id _).2.1, (about_ready id _).2.2, by decide⟩, by decide,
   ⟨by decide, by decide, fun _ h => nomatch h⟩, ⟨by decide, by decide, fun _ h => nomatch h⟩⟩

theorem witness_CallPushesAndJumps :
    (State.reset.par.stackLimit = none) ∧ ((bounded []).par.stackLimit = some 1 ∧ (bounded []).stack.length < 1) ∧
    ((bounded [0x202]).par.stackLimit = some 1 ∧ 1 ≤ (bounded [0x202]).stack.length) := by decide

theorem witness_JmpOffAddsChosenRegister :
    (quirky fun q => { q with jumping := true }).par.q.jumping = true ∧ State.reset.par.q.jumping = false := by decide

theorem witness_RndMasksOneDraw : { State.reset with rand := [0xA7] }.rand = 0xA7 :: [] ∧ State.reset.rand = [] := by decide

/-- The last byte of memory, an empty sprite at an address outside memory, and the last 32 bytes. -/
theorem witness_Drw :
    ((State.reset.setI 0x0FFF).i.toNat + spriteLen (State.reset.setI 0x0FFF) 1 ≤ 0x1000) ∧
    (spriteLen (State.reset.setI 0xFFFF) 0 = 0) ∧
    (let s := (State.reset.setI 0x0FE0).setRes .high; s.i.toNat + spriteLen s 0 ≤ 0x1000) := by decide

/-- A pixel the sprite lights, and one it does not. -/
theorem witness_Lights : let s := State.reset.setI 0x050
    Lights s 1 2 5 3 0 ∧ ¬Lights s 1 2 5 64 0 := by
  refine ⟨⟨0, 3, by decide⟩, ?_⟩
  rintro ⟨r, c, hr, hc, -, hx, -⟩
  have hc : c < 8 := hc
  simp only [landX, landing] at hx
  have x0 : (State.reg (State.reset.setI 0x050) 1).toNat % 64 = 0 := by decide
  have w : (State.reset.setI 0x050).res.width = 64 := rfl
  rw [w, x0] at hx
  split_ifs at hx with h
  · simp at hx; omega
  · omega

theorem witness_DrwFaultsPrecisely :
    (let s := State.reset.setI 0x1000; 0 < spriteLen s 1 ∧ 0x1000 < s.i.toNat + spriteLen s 1) ∧
    (let s := State.reset.setI 0x0FFF; 0 < spriteLen s 2 ∧ 0x1000 < s.i.toNat + spriteLen s 2) := by decide

theorem witness_BcdStoresDigits :
    (State.reset.setI 0xFFD).i.toNat + 3 ≤ 0x1000 ∧ 0x1000 < (State.reset.setI 0xFFE).i.toNat + 3 := by decide

theorem witness_BlockStore_BlockLoad :
    (State.reset.setI 0xFF0).i.toNat + (15 : Nibble).toNat + 1 ≤ 0x1000 ∧
    0x1000 < (State.reset.setI 0xFF1).i.toNat + (15 : Nibble).toNat + 1 ∧
    (State.reset.setI 0xFFF).i.toNat + (0 : Nibble).toNat + 1 ≤ 0x1000 := by decide

/-- The spec's own example (R69: `F055` whose one byte is the next word's first), and the last bytes of memory. -/
theorem witness_StoreIsSeenByNextFetch :
    (let s := (State.reset.setI 0x302).setPc 0x302
     s.pc.toNat < 0x0FFF ∧ s.i.toNat + (0 : Nibble).toNat + 1 ≤ 0x1000 ∧ s.i.toNat + 3 ≤ 0x1000) ∧
    (let s := (State.reset.setI 0xFFE).setPc 0xFFE
     s.pc.toNat < 0x0FFF ∧ s.i.toNat + (1 : Nibble).toNat + 1 ≤ 0x1000) ∧
    (let s := (State.reset.setI 0xFFD).setPc 0xFFE; s.pc.toNat < 0x0FFF ∧ s.i.toNat + 3 ≤ 0x1000) := by decide

theorem witness_KeySkips :
    (let s := withRegs { State.reset with key := some 15, pressed := true } [(1, 15)]
     s.pressed = true ∧ ∃ k, s.key = some k ∧ k.toNat = (s.reg 1).toNat) ∧
    ¬(State.reset.pressed = true ∧ ∃ k, State.reset.key = some k ∧ k.toNat = (State.reset.reg 1).toNat) :=
  ⟨⟨rfl, 15, rfl, by decide⟩, by simp [State.reset, State.construct]⟩

theorem witness_KeyWaitArmsWaitsCompletes :
    State.reset.kw = false ∧ (let s := State.reset.setKeyWait true false; s.kw = true ∧ s.kdl = false) ∧
    (let s := { State.reset.setKeyWait true true with key := some 7 }; s.kw = true ∧ s.kdl = true ∧ s.key = some 7) := by decide

theorem witness_KeyWaitIsIdempotent : let s := (aboutWith id 0xF30A).setKeyWait true false
    s.AboutToTick ∧ s.CpuReady ∧ s.pc.toNat < 0x0FFF ∧ decodeWord s.wordAtPc = .ok (.ldVKey 3) ∧ s.kw = true ∧ s.kdl = false :=
  ⟨(about_ready id 0xF30A).1, (about_ready id 0xF30A).2.1, (about_ready id 0xF30A).2.2, by decide, rfl, rfl⟩

/-- One instruction that completes, one that faults. -/
theorem witness_StepRunsDecodedInstruction :
    (let s := aboutWith id 0x6A2F
     s.AboutToTick ∧ s.CpuReady ∧ s.pc.toNat < 0x0FFF ∧
     decode [s.mem.read s.pc.toNat, s.mem.read (s.pc.toNat + 1)] = .ok (.ldVK 0xA 0x2F, []) ∧
     ∃ t, exec (.ldVK 0xA 0x2F) { s with inputs := s.inputs.tail, pc := s.pc + 2#16 } = .next t) ∧
    (let s := (aboutWith id 0xF033).setI 0xFFF
     s.AboutToTick ∧ s.CpuReady ∧ s.pc.toNat < 0x0FFF ∧
     decode [s.mem.read s.pc.toNat, s.mem.read (s.pc.toNat + 1)] = .ok (.ldBV 0, []) ∧
     ∃ t, exec (.ldBV 0) { s with inputs := s.inputs.tail, pc := s.pc + 2#16 } = .next t) :=
  ⟨⟨(about_ready id _).1, (about_ready id _).2.1, (about_ready id _).2.2, by decide, _, rfl⟩,
   ⟨(about_ready id 0xF033).1, (about_ready id 0xF033).2.1, (about_ready id 0xF033).2.2, by decide, _, rfl⟩⟩

/-- A machine with the policy `p` about to run the word 5121. -/
def aboutUnmapped (p : UnmappedPolicy) : State := aboutWith (fun q => { q with unmappedPolicy := p }) 0x5121

theorem witness_UnmappedWordFollowsPolicy :
    ((aboutUnmapped .fault).AboutToTick ∧ (aboutUnmapped .fault).CpuReady ∧ (aboutUnmapped .fault).pc.toNat < 0x0FFF ∧
      decodeWord (aboutUnmapped .fault).wordAtPc = .error (.unmapped 0x5121) ∧
      (aboutUnmapped .fault).par.unmappedPolicy = .fault) ∧
    ((aboutUnmapped .nopAdvance).AboutToTick ∧ (aboutUnmapped .nopAdvance).CpuReady ∧
      (aboutUnmapped .nopAdvance).pc.toNat < 0x0FFF ∧
      decodeWord (aboutUnmapped .nopAdvance).wordAtPc = .error (.unmapped 0x5121) ∧
      (aboutUnmapped .nopAdvance).par.unmappedPolicy = .nopAdvance) ∧
    ((aboutUnmapped .nopStall).AboutToTick ∧ (aboutUnmapped .nopStall).CpuReady ∧
      (aboutUnmapped .nopStall).pc.toNat < 0x0FFF ∧
      decodeWord (aboutUnmapped .nopStall).wordAtPc = .error (.unmapped 0x5121) ∧
      (aboutUnmapped .nopStall).par.unmappedPolicy = .nopStall) :=
  ⟨⟨(about_ready _ _).1, (about_ready _ _).2.1, (about_ready _ _).2.2, by decide, rfl⟩,
   ⟨(about_ready _ _).1, (about_ready _ _).2.1, (about_ready _ _).2.2, by decide, rfl⟩,
   ⟨(about_ready _ _).1, (about_ready _ _).2.1, (about_ready _ _).2.2, by decide, rfl⟩⟩

/-- The last byte of memory, the first address past it, and the largest target of JMP_OFF. -/
theorem witness_FetchOutOfBoundsFaults :
    ((runningAt 0x0FFF).AboutToTick ∧ (runningAt 0x0FFF).CpuReady ∧ 0x0FFF ≤ (runningAt 0x0FFF).pc.toNat) ∧
    ((runningAt 0x1000).AboutToTick ∧ (runningAt 0x1000).CpuReady ∧ 0x0FFF ≤ (runningAt 0x1000).pc.toNat) ∧
    ((runningAt 0x10FE).AboutToTick ∧ (runningAt 0x10FE).CpuReady ∧ 0x0FFF ≤ (runningAt 0x10FE).pc.toNat) :=
  ⟨⟨rfl, (runningAt_ready _).2, by decide⟩, ⟨rfl, (runningAt_ready _).2, by decide⟩, ⟨rfl, (runningAt_ready _).2, by decide⟩⟩

theorem witness_CpuTickNeedsRunning :
    (State.reset.AboutToTick ∧ State.reset.run ≠ .running) ∧
    (let s : State := { State.reset with run := .paused }; s.AboutToTick ∧ s.run ≠ .running) :=
  ⟨⟨rfl, by decide⟩, rfl, by decide⟩

theorem witness_DisplayWaitSkipsTick : let s := State.reset.setInt true
    s.AboutToTick ∧ s.par.q.displayWait = true ∧ s.int = true := ⟨rfl, by decide, rfl⟩

theorem witness_LatchedFaultHolds :
    ((latched []).fault = some { cause := .unmapped, pc := 0x200, info := 0x5121 } ∧ (latched []).AboutToTick) ∧
    (let s := latched [.timerTick]
     (∃ t, step s = .next t) ∧ s.nextEvent ≠ .reset ∧ ∀ bs, s.nextEvent ≠ .loadRom bs) ∧
    (latched [.reset]).nextEvent = .reset ∧ (latched [.loadRom [0x12]]).nextEvent = .loadRom [0x12] :=
  ⟨⟨rfl, rfl⟩, ⟨⟨_, rfl⟩, by decide, by intro bs h; cases h⟩, rfl, rfl⟩

theorem witness_FaultsArePrecise : let s := (aboutWith id 0xF033).setI 0xFFF
    s.fault = none ∧ step s = .next (after s) ∧
    (after s).fault = some { cause := .dataBounds, pc := 0x200, info := 0x1000 } := ⟨rfl, rfl, by decide⟩

theorem witness_TimerTickCountsDown : let s (r : Lifecycle) (gates : Bool) : State :=
      { State.construct { defaultParams .chip8 with pauseGatesTimers := gates } with run := r, st := 2, inputs := [.timerTick] }
    ((s .running true).inputs = .timerTick :: [] ∧ (s .running true).run = .running) ∧
    ((s .paused false).run = .paused ∧ (s .paused false).par.pauseGatesTimers = false) ∧
    (s .idle false).run = .idle ∧ ((s .paused true).run = .paused ∧ (s .paused true).par.pauseGatesTimers = true) := by decide

theorem witness_KeyDownStoresKey : let s (k : Int) := withEvent State.reset (.keyDown k)
    (s 0).inputs = .keyDown 0 :: [] ∧ (s 15).inputs = .keyDown 15 :: [] ∧ ((0 : Int) ≤ 15 ∧ (15 : Int) ≤ 15) ∧
    (s 16).inputs = .keyDown 16 :: [] ∧ ((15 : Int) < 16) ∧ (s (-1)).inputs = .keyDown (-1) :: [] ∧ ((-1 : Int) < 0) := by decide

theorem witness_KeyUpClearsPressed : let s (k : Int) := withEvent { State.reset with pressed := true, key := some 3 } (.keyUp k)
    (s 0).inputs = .keyUp 0 :: [] ∧ (s 15).inputs = .keyUp 15 :: [] ∧ (s 16).inputs = .keyUp 16 :: [] ∧
    (s (-1)).inputs = .keyUp (-1) :: [] := by decide

/-- For `set_speed`, a rational and a free real above 0, and 0 and a free real below 0. -/
theorem witness_HostCommands : let s (e : Event) := withEvent State.reset e
    (s .start).inputs = .start :: [] ∧ (s .pause).inputs = .pause :: [] ∧ (s .resume).inputs = .resume :: [] ∧
    (∀ f, (s (.setSpeed f)).inputs = .setSpeed f :: []) ∧
    (0 < (HostReal.rational 2).value ∧ 0 < (HostReal.positive 0).value) ∧
    ((HostReal.rational 0).value ≤ 0 ∧ (HostReal.negative 0).value ≤ 0) ∧
    (s (.setSound false)).inputs = .setSound false :: [] :=
  ⟨rfl, rfl, rfl, fun _ => rfl, ⟨by simp, (Config.positiveReal 0).property⟩,
    ⟨by simp, by simpa using (Config.positiveReal 0).property.le⟩, rfl⟩

theorem witness_ResetEvent : (withEvent (lit 3 5) .reset).inputs = .reset :: [] := rfl

/-- A ROM of exactly 3584 bytes, and one a byte longer. -/
theorem witness_LoadRomEvent :
    let bs (n : Nat) : List Byte := List.replicate n 0xAA
    (withEvent State.reset (.loadRom (bs 3584))).inputs = .loadRom (bs 3584) :: [] ∧ (bs 3584).length ≤ 3584 ∧
    (withEvent State.reset (.loadRom (bs 3585))).inputs = .loadRom (bs 3585) :: [] ∧ ¬(bs 3585).length ≤ 3584 := by
  intro bs
  have len (n : Nat) : (bs n).length = n := List.length_replicate
  exact ⟨rfl, le_of_eq (len 3584), rfl, fun h => absurd (len 3585 ▸ h) (by omega)⟩

theorem witness_DecodeOfEncode :
    (Instr.drw 0xF 0x0 0xF).wf = true ∧ (Instr.sys 0xFFD).wf = true ∧ (Instr.sys 0x0BF).wf = true := by decide

theorem witness_DecodedWordIsInItsRow :
    decodeWord 0x01E0 = .ok .cls ∧ decodeWord 0x0FFD = .ok (.sys 0xFFD) ∧ decodeWord 0xFFFF = .error (.unmapped 0xFFFF) ∧
    decodeWord 0x8F0E = .ok (.shl 0xF 0x0) := by decide

/-- States with the invariant that step, one of them with a latched fault. -/
theorem witness_StepKeepsInv :
    State.reset.Inv ∧ step State.reset = .next (after State.reset) ∧ (latched []).Inv ∧
    step (latched []) = .next (after (latched [])) := by
  refine ⟨⟨Memory.wf_nil, by simp [State.reset, State.construct], by decide, by simp [State.reset, State.construct],
    by simp [State.reset, State.construct, defaultParams],
    by simp [State.reset, State.construct], by simp [State.reset, State.construct]⟩, rfl, ⟨Memory.wf_nil,
    by simp [latched, State.reset, State.construct], by decide, by simp [latched, State.reset, State.construct], by simp [latched, State.reset, State.construct, defaultParams],
    by simp [latched, State.reset, State.construct], ?_⟩, rfl⟩
  intro f hf
  obtain rfl : { cause := .unmapped, pc := 0x200, info := 0x5121 } = f := by simpa [latched] using hf
  exact ⟨rfl, by decide, by decide⟩

theorem witness_ParametersNeverChange : step State.reset = .next (after State.reset) := rfl

/-- An instruction that does not draw; and steps that change the framebuffer: a CLS, `reset` and `load_rom`. -/
theorem witness_FramebufferWriters :
    ((∃ t, exec (.ldVK 1 2) State.reset = .next t) ∧ drawsOnScreen (.ldVK 1 2) = false) ∧
    (let s := (lit 3 5).withFetchWord 16 0x00E0; step s = .next (after s) ∧ (after s).phys ≠ s.phys) ∧
    (let s := withEvent (lit 3 5) .reset; step s = .next (after s) ∧ (after s).phys ≠ s.phys) ∧
    (let s := withEvent (lit 3 5) (.loadRom []); step s = .next (after s) ∧ (after s).phys ≠ s.phys) :=
  ⟨⟨⟨_, rfl⟩, rfl⟩, ⟨rfl, by decide⟩, ⟨rfl, by decide⟩, ⟨rfl, by decide⟩⟩

theorem witness_RegistersOutsideTheTableAreKept :
    (∃ t, exec (.addVV 1 2) State.reset = .next t) ∧ destReg (.addVV 1 2) State.reset.par.q 2 = false ∧
    destReg (.orVV 1 2) (profileQuirks .xochip) 0xF = false ∧ destReg (.ldVM 3) State.reset.par.q 4 = false :=
  ⟨⟨_, rfl⟩, by decide, by decide, by decide⟩

/-- An instruction that changes each kind of state. -/
theorem witness_EachKindOfStateHasItsWriters :
    (run1 State.reset 0x2300).stack ≠ [] ∧ (run1 (withRegs State.reset [(0, 10)]) 0xF015).dt ≠ 0 ∧
    (run1 (withRegs State.reset [(0, 10)]) 0xF018).st ≠ 0 ∧ (run1 State.reset 0x00FF).res ≠ .low ∧
    (run1 State.reset 0xD000).int ≠ false ∧ (run1 State.reset 0xF00A).kw ≠ false ∧
    (run1 State.reset 0xA123).i ≠ 0 ∧ (run1 State.reset 0xC0FF).randUsed ≠ 0 := by decide

theorem witness_SpeedHasNoInfluence :
    (∀ g, State.reset.nextEvent ≠ .setSpeed g) ∧ step State.reset = .next (after State.reset) :=
  ⟨fun _ h => (nomatch h), rfl⟩

/-- Twice the speed at reset; and, for any free real `c`, a machine at SPEED 1 told to run at it. -/
theorem witness_SpeedScalesBothPeriods :
    0 < State.reset.speed.value ∧ 0 < State.reset.par.cpuHz.value ∧
    ((0 : ℝ) < 2 ∧ (HostReal.rational 2).value = 2 * State.reset.speed.value) ∧
    (0 < (Config.positiveReal 0).val ∧
      (HostReal.positive 0).value = (Config.positiveReal 0).val * State.reset.speed.value) := by
  have h : State.reset.speed.value = 1 := by simp [State.reset, State.construct]
  exact ⟨by simp [h], by simp [State.reset, State.construct, defaultParams], ⟨by norm_num, by simp [h]⟩,
    (Config.positiveReal 0).property, by simp [h]⟩

end Sys2Proof.Machine.Tests
end

section
/-! The parameters are constant (00_scope.md R3, R8; log 1). -/

namespace Sys2Proof.Machine

open Host.Outcome (next.inj)

/-- Completed or faulted, an instruction answers with the parameters it was given. -/
theorem exec_keeps_par {i : Instr} {s t : State} (h : exec i s = .next t) : t.par = s.par := by
  obtain ⟨u, hu, answer⟩ := exec_answers i s
  obtain rfl := next.inj (hu.symm.trans h)
  rcases answer with completes | ⟨c, info, rfl, -⟩
  · exact completes.par
  · exact s.latchFault_par c _ info

theorem finishTick_keeps_par {t u : State} (h : finishTick (.next t) = .next u) : u.par = t.par := by
  obtain ⟨n, hn⟩ := finishTick_next_eq t
  obtain rfl := next.inj (hn.symm.trans h)
  rfl

theorem unmappedWord_keeps_par (op : Word) (s : State) : (unmappedWord op s).par = s.par := by
  obtain ⟨pc, fault, hw, -⟩ := unmappedWord_keeps op s
  rw [hw]

theorem cpuTick_keeps_par {s t : State} (h : cpuTick s = .next t) : t.par = s.par := by
  rcases cpuTick_cases s with ⟨-, idle⟩ | ⟨-, -, fetchFault⟩ | ⟨-, -, -, unmapped⟩ | ⟨i, -, -, -, executed⟩
  · rw [next.inj (idle.symm.trans h)]
  · rw [← next.inj (fetchFault.symm.trans h), State.latchFault_par]
  · rw [finishTick_keeps_par (unmapped.symm.trans h), unmappedWord_keeps_par, State.setPc_par]
  · obtain ⟨u, hu, -⟩ := exec_answers i (s.setPc (s.pc + 2#16))
    rw [executed, hu] at h
    rw [finishTick_keeps_par h, exec_keeps_par hu, State.setPc_par]

theorem onReset_par (s : State) : s.onReset.par = s.par := rfl

theorem onLoadRom_par (s : State) (bytes : List Byte) : (s.onLoadRom bytes).par = s.par := by
  unfold State.onLoadRom
  split <;> exact onReset_par s

/-- No event replaces the parameters: `reset` and `load_rom` keep them too (70_reset_and_hazards.md R181). -/
theorem handleEvent_keeps_par {e : Event} {s t : State} (h : handleEvent e s = .next t) : t.par = s.par := by
  by_cases tick : e = .cpuTick
  · subst tick
    exact cpuTick_keeps_par h
  by_cases reset : e = .reset
  · subst reset
    rw [← next.inj h, onReset_par]
  by_cases load : ∃ bytes, e = .loadRom bytes
  · obtain ⟨bytes, rfl⟩ := load
    rw [← next.inj h, onLoadRom_par]
  · obtain ⟨u, hu, keeps⟩ := handleEvent_keeps s tick reset (not_exists.mp load)
    rw [← next.inj (hu.symm.trans h), keeps]

/-- Settles O52: a step handles one event on a state that differs from `s` in its event list alone. -/
theorem parametersNeverChange : Obligations.ParametersNeverChange := by
  intro s t h
  calc t.par = s.takeEvent.par := handleEvent_keeps_par h
    _ = s.par := s.takeEvent_par

end Sys2Proof.Machine
end

section
/-! Who writes the framebuffer (10_state.md R36). -/

namespace Sys2Proof.Machine

open Host.Outcome (next.inj)

/-! ## The shared operations leave the framebuffer (Laws/Ops.lean says all that each can give) -/

/-- The fault of a checked access draws nothing. -/
theorem State.accessing_phys (s : State) (base len : Nat) {done : State} (h : done.phys = s.phys) :
    (s.accessing base len done).phys = s.phys := by
  rcases s.accessing_cases base len done with completed | ⟨a, -, faulted⟩
  · rw [completed, h]
  · rw [faulted, latchFault_phys]

/-- The fault of a push beyond the bound draws nothing. -/
theorem State.pushing_phys (s : State) {done : State} (h : done.phys = s.phys) : (s.pushing done).phys = s.phys := by
  rcases s.pushing_cases done with ⟨pushed, -⟩ | ⟨bound, -, -, faulted⟩
  · rw [pushed, h]
  · rw [faulted, latchFault_phys]

@[simp] theorem State.skipIf_phys (s : State) (b : Bool) : (s.skipIf b).phys = s.phys := by
  rw [skipIf_eq, setPc_phys]

@[simp] theorem State.logicFlag_phys (s : State) : s.logicFlag.phys = s.phys := by
  rw [logicFlag_eq, setV_phys]

/-! ## Instructions -/

theorem execRet_phys {s t : State} (h : execRet s = .next t) : t.phys = s.phys := by
  unfold execRet at h
  split at h <;> rw [← next.inj h]
  rw [State.setPc_phys, State.setStack_phys]

/-- Arming, waiting and completing a key wait draw nothing (45_keys_timers.md R145). -/
theorem execLdVKey_phys {x : Nibble} {s t : State} (h : execLdVKey x s = .next t) : t.phys = s.phys := by
  unfold execLdVKey at h
  split at h
  · rw [← next.inj h, State.stall_eq_setPc, State.setPc_phys, State.setKeyWait_phys]
  · split at h
    · split at h
      · rw [← next.inj h, State.setKeyWait_phys, State.setV_phys]
      · rw [← next.inj h, State.stall_eq_setPc, State.setPc_phys]
    · rw [← next.inj h, State.stall_eq_setPc, State.setPc_phys]

/-- An instruction that is none of CLS, HIGH, LOW, SCR, SCL, SCD and DRW leaves the framebuffer, whether it completes or
faults. -/
theorem exec_keeps_phys {i : Instr} {s t : State} (h : exec i s = .next t) (hi : drawsOnScreen i = false) :
    t.phys = s.phys := by
  cases i with
  | cls | high | low | scr | scl | scd _ | drw _ _ _ => exact nomatch hi
  | ret => exact execRet_phys h
  | ldVKey _ => exact execLdVKey_phys h
  | call _ => rw [← next.inj h]; exact s.pushing_phys rfl
  | ldBV _ | ldMV _ | ldVM _ => rw [← next.inj h]; exact s.accessing_phys _ _ rfl
  | sei _ _ | snei _ _ | ser _ _ | sner _ _ | skp _ | sknp _ => rw [← next.inj h, State.skipIf_phys]
  | orVV _ _ | andVV _ _ | xorVV _ _ => rw [← next.inj h, State.logicFlag_phys, State.setV_phys]
  | _ => rw [← next.inj h]; rfl

/-! ## The CPU tick and the other events -/

theorem finishTick_keeps_phys {t u : State} (h : finishTick (.next t) = .next u) : u.phys = t.phys := by
  obtain ⟨n, hn⟩ := finishTick_next_eq t
  rw [← next.inj (hn.symm.trans h)]

theorem unmappedWord_keeps_phys (op : Word) (s : State) : (unmappedWord op s).phys = s.phys := by
  obtain ⟨pc, fault, hw, -⟩ := unmappedWord_keeps op s
  rw [hw]

/-- A CPU tick that changes the framebuffer is no skipped tick, no fetch fault and no unmapped word: it ran an instruction
that draws. -/
theorem cpuTick_changes_phys {s t : State} (h : cpuTick s = .next t) (changed : t.phys ≠ s.phys) :
    s.CpuReady ∧ s.pc.toNat < 0x0FFF ∧ ∃ i, decodeWord s.wordAtPc = .ok i ∧ drawsOnScreen i = true := by
  rcases cpuTick_cases s with ⟨-, idle⟩ | ⟨-, -, fetchFault⟩ | ⟨-, -, -, unmapped⟩ | ⟨i, ready, pc, decoded, executed⟩
  · exact absurd (by rw [next.inj (idle.symm.trans h)]) changed
  · exact absurd (by rw [← next.inj (fetchFault.symm.trans h), State.latchFault_phys]) changed
  · exact absurd (by rw [finishTick_keeps_phys (unmapped.symm.trans h), unmappedWord_keeps_phys, State.setPc_phys]) changed
  · refine ⟨ready, pc, i, decoded, ?_⟩
    obtain ⟨u, hu, -⟩ := exec_answers i (s.setPc (s.pc + 2#16))
    rw [executed, hu] at h
    by_contra draws
    exact changed (by
      rw [finishTick_keeps_phys h, exec_keeps_phys hu (Bool.eq_false_of_not_eq_true draws), State.setPc_phys])

/-- An event that changes the framebuffer is `reset`, `load_rom` or a CPU tick; in particular it is no timer tick. -/
theorem handleEvent_changes_phys {e : Event} {s t : State} (h : handleEvent e s = .next t) (changed : t.phys ≠ s.phys) :
    e = .reset ∨ (∃ bytes, e = .loadRom bytes) ∨ e = .cpuTick := by
  by_contra other
  obtain ⟨reset, load, tick⟩ : e ≠ .reset ∧ (¬∃ bytes, e = .loadRom bytes) ∧ e ≠ .cpuTick := by
    simpa only [not_or] using other
  obtain ⟨u, hu, keeps⟩ := handleEvent_keeps s tick reset (not_exists.mp load)
  exact changed (by rw [← next.inj (hu.symm.trans h), keeps])

/-- Settles O53: an instruction by its cases; a step by its event, and a CPU tick by what it ran.  The event taken off the list
is nothing the tick reads. -/
theorem framebufferWriters : Obligations.FramebufferWriters := by
  refine ⟨fun _ _ _ => exec_keeps_phys, fun s t h changed => ?_⟩
  rcases handleEvent_changes_phys h changed with reset | load | tick
  · exact .inl reset
  · exact .inr (.inl load)
  · have ran : cpuTick s.takeEvent = .next t := by
      rw [step, stepEvent, tick] at h
      exact h
    exact .inr (.inr ⟨tick, cpuTick_changes_phys (s := s.takeEvent) ran changed⟩)

end Sys2Proof.Machine
end

section
/-! Release of a key (10_state.md R42). -/

namespace Sys2Proof.Machine

/-- A step with an event waiting handles that event, taken off the list (20_memory.md R64). -/
theorem step_of_inputs {s : State} {e : Event} {rest : List Event} (h : s.inputs = e :: rest) :
    step s = handleEvent e { s with inputs := rest } := by
  simp only [step, stepEvent, State.nextEvent, State.takeEvent, h, List.headD_cons, List.tail_cons]

theorem isKeyCode_iff (k : Int) : isKeyCode k = true ↔ 0 ≤ k ∧ k ≤ 15 := decide_eq_true_iff

theorem State.onKeyUp_of_keyCode (s : State) {k : Int} (h : 0 ≤ k ∧ k ≤ 15) : s.onKeyUp k = { s with pressed := false } :=
  if_pos ((isKeyCode_iff k).mpr h)

theorem State.onKeyUp_of_not_keyCode (s : State) {k : Int} (h : ¬(0 ≤ k ∧ k ≤ 15)) : s.onKeyUp k = s :=
  if_neg (mt (isKeyCode_iff k).mp h)

/-- Settles O40: the step handles `key_up(k)`, by whether `k` is a key code. -/
theorem keyUpClearsPressed : Obligations.KeyUpClearsPressed := by
  intro s rest k waiting
  rw [step_of_inputs waiting, handleEvent]
  constructor
  · intro code
    rw [State.onKeyUp_of_keyCode _ code]
  · intro other
    rw [State.onKeyUp_of_not_keyCode _ (by omega)]

end Sys2Proof.Machine
end

section
/-! The stall of SYS (40_group0.md R102). -/

namespace Sys2Proof.Machine

/-! ## The word (30_encoding.md R78) -/

/-- `y` is the high nibble of `kk` (R74). -/
theorem extract_high_fieldKK (op : Word) : (fieldKK op).extractLsb' 4 4 = fieldY op := by
  rw [← fieldYN_append op]
  exact (extract_append_high _ _ 0 4).trans (extract_all _)

/-- A low byte that no fixed row of group 0x0 claims leaves the last arm of the dispatch, and there the row of SCD is out. -/
theorem decodeGroup0_of_unclaimed {op : Word} (unclaimed : claimedLowByte (fieldKK op) = false) :
    decodeGroup0 op = .sys (fieldNNN op) := by
  simp only [claimedLowByte, Bool.or_eq_false_iff, beq_eq_false_iff_ne] at unclaimed
  obtain ⟨⟨⟨⟨⟨⟨cls, ret⟩, high⟩, low⟩, scr⟩, scl⟩, scd⟩ := unclaimed
  rw [extract_high_fieldKK] at scd
  unfold decodeGroup0
  split
  · exact absurd ‹_› cls
  · exact absurd ‹_› ret
  · exact absurd ‹_› high
  · exact absurd ‹_› low
  · exact absurd ‹_› scr
  · exact absurd ‹_› scl
  · exact if_neg scd

theorem decodeWord_of_group0 {op : Word} (group : fieldC op = 0x0#4) : decodeWord op = .ok (decodeGroup0 op) := by
  unfold decodeWord
  rw [group]
  rfl

/-! ## The CPU tick -/

theorem exec_sys (nnn : Addr12) (s : State) : exec (.sys nnn) s = .next (s.setPc (s.pc - 2#16)) := rfl

/-- SYS takes back the advance of the fetch (R84). -/
theorem exec_sys_after_fetch (nnn : Addr12) (s : State) : exec (.sys nnn) (s.setPc (s.pc + 2#16)) = .next s := by
  rw [exec_sys, State.setPc_pc, BitVec.add_sub_cancel]
  rfl

/-- All that a CPU tick at a SYS can do: nothing, the fault of its fetch, or the stall. -/
theorem cpuTick_at_sys_cases {s : State} {nnn : Addr12} (decoded : decodeWord s.wordAtPc = .ok (.sys nnn)) :
    (¬s.CpuReady ∧ cpuTick s = .next s) ∨
    (0x0FFF ≤ s.pc.toNat ∧ cpuTick s = .next (s.latchFault .fetchBounds s.pc (max s.pc.toNat memSize))) ∨
    cpuTick s = .next s.strobe := by
  rcases cpuTick_cases s with idle | ⟨-, pc, fetchFault⟩ | ⟨-, -, unmapped, -⟩ | ⟨i, ready, -, ran, executed⟩
  · exact .inl idle
  · exact .inr (.inl ⟨pc, fetchFault⟩)
  · exact nomatch decoded.symm.trans unmapped
  · obtain rfl : Instr.sys nnn = i := Except.ok.inj (decoded.symm.trans ran)
    obtain ⟨-, noFault, -⟩ := ready
    refine .inr (.inr ?_)
    rw [executed, exec_sys_after_fetch, finishTick_next, noFault]
    rfl

/-- A tick that fetches a SYS does nothing but strobe. -/
theorem cpuTick_of_sys {s : State} {nnn : Addr12} (ready : s.CpuReady) (pc : s.pc.toNat < 0x0FFF)
    (decoded : decodeWord s.wordAtPc = .ok (.sys nnn)) : cpuTick s = .next s.strobe := by
  rcases cpuTick_at_sys_cases decoded with ⟨notReady, -⟩ | ⟨outside, -⟩ | stalled
  · exact absurd ready notReady
  · omega
  · exact stalled

/-! ## The timer tick (60_exceptions.md R160) -/

theorem countDown_toNat (b : Byte) : (countDown b).toNat = b.toNat - 1 := by
  unfold countDown
  split
  next zero => rw [zero]; rfl
  next positive => bv_omega

theorem State.onTimerTick_of_running {s : State} (running : s.run = .running) : s.onTimerTick = s.timerTick := by
  rw [State.onTimerTick, State.timersRun, running]
  rfl

/-! ## The hold -/

theorem State.wordAtPc_congr {s t : State} (pc : t.pc = s.pc) (mem : t.mem = s.mem) : t.wordAtPc = s.wordAtPc := by
  rw [State.wordAtPc, pc, mem, State.wordAtPc]

/-- No event but `reset` and `load_rom` moves PC off a SYS, or writes memory there: a CPU tick only stalls, or faults with PC
kept, and no other event moves PC or writes memory at all. -/
theorem handleEvent_at_sys {e : Event} {s : State} {nnn : Addr12} (decoded : decodeWord s.wordAtPc = .ok (.sys nnn))
    (reset : e ≠ .reset) (load : ∀ bs, e ≠ .loadRom bs) :
    ∃ t, handleEvent e s = .next t ∧ t.pc = s.pc ∧ t.mem = s.mem := by
  by_cases tick : e = .cpuTick
  · subst tick
    rcases cpuTick_at_sys_cases decoded with ⟨-, idle⟩ | ⟨-, fetchFault⟩ | stalled
    · exact ⟨_, idle, rfl, rfl⟩
    · exact ⟨_, fetchFault, rfl, rfl⟩
    · exact ⟨_, stalled, rfl, rfl⟩
  · obtain ⟨t, answered, keeps⟩ := handleEvent_keeps s tick reset load
    exact ⟨t, answered, by rw [keeps], by rw [keeps]⟩

/-- Settles O5, clause by clause: the word, the instruction, the tick that fetches it, the timer tick, the hold.  A step takes
its event off the list first, which changes nothing the event reads. -/
theorem sysStalls : Obligations.SysStalls := by
  refine ⟨fun op group unclaimed => ?_, fun s nnn => exec_sys nnn s, fun s nnn tick ready pc decoded => ?_,
    fun s nnn rest running _ waiting => ?_, fun s nnn decoded reset load => ?_⟩
  · rw [decodeWord_of_group0 (fieldC_of_mask group rfl), decodeGroup0_of_unclaimed unclaimed]
    rfl
  · calc step s = cpuTick s.takeEvent := by rw [step, stepEvent, tick, handleEvent]
      _ = .next s.takeEvent.strobe := cpuTick_of_sys (s := s.takeEvent) ready pc decoded
  · refine ⟨State.timerTick { s with inputs := rest }, ?_, rfl, countDown_toNat s.dt, countDown_toNat s.st⟩
    rw [step_of_inputs waiting, handleEvent, State.onTimerTick_of_running]
    exact running
  · obtain ⟨t, answered, pc, mem⟩ := handleEvent_at_sys (s := s.takeEvent) decoded reset load
    exact ⟨t, answered, pc, mem, State.wordAtPc_congr pc mem⟩

end Sys2Proof.Machine
end

section
/-! The jump JMP and the register skips SEI, SNEI, SER and SNER (41_flow.md R104, R106 to R110). -/

namespace Sys2Proof.Machine

/-! ## The words (30_encoding.md R77, R79) -/

theorem decodeWord_of_group1 {op : Word} (group : fieldC op = 0x1#4) : decodeWord op = .ok (.jmp (fieldNNN op)) := by
  unfold decodeWord
  rw [group]
  rfl

theorem decodeWord_of_group3 {op : Word} (group : fieldC op = 0x3#4) :
    decodeWord op = .ok (.sei (fieldX op) (fieldKK op)) := by
  unfold decodeWord
  rw [group]
  rfl

theorem decodeWord_of_group4 {op : Word} (group : fieldC op = 0x4#4) :
    decodeWord op = .ok (.snei (fieldX op) (fieldKK op)) := by
  unfold decodeWord
  rw [group]
  rfl

/-- Group 0x5 holds one instruction, at last nibble 0. -/
theorem decodeWord_of_group5 {op : Word} (group : fieldC op = 0x5#4) (last : fieldN op = 0x0#4) :
    decodeWord op = .ok (.ser (fieldX op) (fieldY op)) := by
  unfold decodeWord
  rw [group]
  exact if_pos last

/-- Group 0x9 holds one instruction, at last nibble 0. -/
theorem decodeWord_of_group9 {op : Word} (group : fieldC op = 0x9#4) (last : fieldN op = 0x0#4) :
    decodeWord op = .ok (.sner (fieldX op) (fieldY op)) := by
  unfold decodeWord
  rw [group]
  exact if_pos last

/-! ## The instructions -/

/-- The target of a jump is the address zero-extended. -/
theorem addrOf_eq_ofNat (nnn : Addr12) : addrOf nnn = BitVec.ofNat 16 nnn.toNat := (BitVec.ofNat_toNat 16 nnn).symm

theorem exec_jmp (nnn : Addr12) (s : State) : exec (.jmp nnn) s = .next (s.setPc (addrOf nnn)) := rfl

/-- A skip whose test decides `p` adds 2 to PC when `p` holds, and is no change otherwise. -/
theorem State.skipIf_of_iff (s : State) {test : Bool} {p : Prop} [Decidable p] (decides : test = true ↔ p) :
    s.skipIf test = if p then { s with pc := s.pc + 2#16 } else s :=
  if_congr decides rfl rfl

theorem exec_sei (x : Nibble) (kk : Byte) (s : State) : exec (.sei x kk) s = .next (s.skipIf (s.reg x == kk)) := rfl

theorem exec_snei (x : Nibble) (kk : Byte) (s : State) : exec (.snei x kk) s = .next (s.skipIf (s.reg x != kk)) := rfl

theorem exec_ser (x y : Nibble) (s : State) : exec (.ser x y) s = .next (s.skipIf (s.reg x == s.reg y)) := rfl

theorem exec_sner (x y : Nibble) (s : State) : exec (.sner x y) s = .next (s.skipIf (s.reg x != s.reg y)) := rfl

/-! ## The statements -/

/-- Settles O6: the word by its leading nibble, the effect by the zero-extended target. -/
theorem jmpSetsPc : Obligations.JmpSetsPc := by
  constructor
  · exact fun op row => decodeWord_of_group1 (fieldC_of_mask row rfl)
  · intro s nnn
    rw [exec_jmp, addrOf_eq_ofNat]
    rfl

/-- Settles O8: the words by the nibbles their rows fix, the effects by what the test of each skip decides. -/
theorem registerSkips : Obligations.RegisterSkips := by
  refine ⟨fun op row => ?_, fun op row => ?_, fun op row => ?_, fun op row => ?_, fun s x y kk => ⟨?_, ?_, ?_, ?_⟩⟩
  · exact decodeWord_of_group3 (fieldC_of_mask row rfl)
  · exact decodeWord_of_group4 (fieldC_of_mask row rfl)
  · exact decodeWord_of_group5 (fieldC_of_mask row rfl) (fieldN_of_mask row rfl)
  · exact decodeWord_of_group9 (fieldC_of_mask row rfl) (fieldN_of_mask row rfl)
  · rw [exec_sei, s.skipIf_of_iff beq_iff_eq]
  · rw [exec_snei, s.skipIf_of_iff bne_iff_ne]
  · rw [exec_ser, s.skipIf_of_iff beq_iff_eq]
  · rw [exec_sner, s.skipIf_of_iff bne_iff_ne]

end Sys2Proof.Machine
end

section
/-! The loads LD_VK and LD_VV and the sum ADD_VK, which write one register and no flag (42_alu.md R112 to R114). -/

namespace Sys2Proof.Machine

/-! ## The words (30_encoding.md R77, R80) -/

theorem decodeWord_of_group6 {op : Word} (group : fieldC op = 0x6#4) :
    decodeWord op = .ok (.ldVK (fieldX op) (fieldKK op)) := by
  unfold decodeWord
  rw [group]
  rfl

theorem decodeWord_of_group7 {op : Word} (group : fieldC op = 0x7#4) :
    decodeWord op = .ok (.addVK (fieldX op) (fieldKK op)) := by
  unfold decodeWord
  rw [group]
  rfl

theorem decodeWord_of_group8 {op : Word} (group : fieldC op = 0x8#4) : decodeWord op = decodeGroup8 op := by
  unfold decodeWord
  rw [group]
  rfl

theorem decodeGroup8_of_last0 {op : Word} (last : fieldN op = 0x0#4) :
    decodeGroup8 op = .ok (.ldVV (fieldX op) (fieldY op)) := by
  unfold decodeGroup8
  rw [last]
  rfl

/-! ## The instructions -/

theorem exec_ldVK (x : Nibble) (kk : Byte) (s : State) : exec (.ldVK x kk) s = .next (s.setV x kk) := rfl

theorem exec_addVK (x : Nibble) (kk : Byte) (s : State) : exec (.addVK x kk) s = .next (s.setV x (s.reg x + kk)) := rfl

theorem exec_ldVV (x y : Nibble) (s : State) : exec (.ldVV x y) s = .next (s.setV x (s.reg y)) := rfl

/-- An instruction whose answer is one register write changes that register and nothing else. -/
theorem writesRegsOnly_of_setV {i : Instr} {s : State} {x : Nibble} {b : Byte} (answer : exec i s = .next (s.setV x b)) :
    WritesRegsOnly i s fun r => if r = x then b else s.reg r := by
  refine ⟨s.setV x b, answer, rfl, fun r => ?_⟩
  rw [State.reg_setV]
  exact if_congr eq_comm rfl rfl

/-- The byte sum wraps mod 2^8 (R124). -/
theorem byte_add_eq_ofNat (a b : Byte) : a + b = BitVec.ofNat 8 ((a.toNat + b.toNat) % 256) := by
  apply BitVec.eq_of_toNat_eq
  rw [BitVec.toNat_add, BitVec.toNat_ofNat, Nat.mod_mod]

/-! ## The statements -/

/-- Settles O10: the words by the nibbles their rows fix; each load is one register write. -/
theorem loadsWriteOneRegister : Obligations.LoadsWriteOneRegister := by
  refine ⟨fun op row => ?_, fun op row => ?_, fun s x y kk => ⟨?_, ?_⟩⟩
  · exact decodeWord_of_group6 (fieldC_of_mask row rfl)
  · exact (decodeWord_of_group8 (fieldC_of_mask row rfl)).trans (decodeGroup8_of_last0 (fieldN_of_mask row rfl))
  · exact writesRegsOnly_of_setV (exec_ldVK x kk s)
  · exact writesRegsOnly_of_setV (exec_ldVV x y s)

/-- Settles O11: the word by its leading nibble; the one register write stores the wrapped sum. -/
theorem addImmediateWrapsWithoutFlag : Obligations.AddImmediateWrapsWithoutFlag := by
  refine ⟨fun op row => ?_, fun s x kk => ?_⟩
  · exact decodeWord_of_group7 (fieldC_of_mask row rfl)
  · rw [← byte_add_eq_ofNat]
    exact writesRegsOnly_of_setV (exec_addVK x kk s)

end Sys2Proof.Machine
end

section
/-! The load LD_IA of the index register (44_index_memory.md R135). -/

namespace Sys2Proof.Machine

/-! ## The word (30_encoding.md R77) -/

theorem decodeWord_of_groupA {op : Word} (group : fieldC op = 0xA#4) : decodeWord op = .ok (.ldIA (fieldNNN op)) := by
  unfold decodeWord
  rw [group]
  rfl

/-! ## The instruction -/

theorem exec_ldIA (nnn : Addr12) (s : State) : exec (.ldIA nnn) s = .next (s.setI (addrOf nnn)) := rfl

/-! ## The statement -/

/-- Settles O20: the word by its leading nibble, the effect by the zero-extended address, which is written to I alone. -/
theorem loadIndexSetsI : Obligations.LoadIndexSetsI := by
  constructor
  · exact fun op row => decodeWord_of_groupA (fieldC_of_mask row rfl)
  · intro s nnn
    rw [exec_ldIA, addrOf_eq_ofNat]
    rfl

end Sys2Proof.Machine
end

section
/-! A CPU tick outside RUNNING (60_exceptions.md R158). -/

namespace Sys2Proof.Machine

/-- A CPU tick that is not ready to fetch does nothing. -/
theorem cpuTick_of_not_cpuReady {s : State} (notReady : ¬s.CpuReady) : cpuTick s = .next s :=
  if_neg (mt s.cpuRuns_iff.mp notReady)

/-- A step whose next event is a CPU tick runs that tick, taken off the list if it stood there (20_memory.md R64; log 3). -/
theorem step_of_aboutToTick {s : State} (about : s.AboutToTick) : step s = cpuTick s.takeEvent := by
  rw [step, stepEvent, about, handleEvent]

/-- What makes a tick not ready is no matter of the event list: the step only takes its event. -/
theorem step_of_not_cpuReady {s : State} (about : s.AboutToTick) (notReady : ¬s.CpuReady) : step s = .next s.takeEvent := by
  rw [step_of_aboutToTick about]
  exact cpuTick_of_not_cpuReady (s := s.takeEvent) notReady

/-- Settles O34: a tick is ready to fetch in RUNNING alone. -/
theorem cpuTickNeedsRunning : Obligations.CpuTickNeedsRunning := by
  intro s about notRunning
  have notReady : ¬s.CpuReady := fun ⟨running, _, _⟩ => notRunning running
  exact step_of_not_cpuReady about notReady

end Sys2Proof.Machine
end

section
/-! The decoder against the encoder and the opcode map (30_encoding.md R77 to R93). -/

namespace Sys2Proof.Machine

open Laws.EncodesInRow (keepC_NNN keepC_XKK keepC_XYN keepCN keepYN keepCKK)

/-! ## The groups that have no lemma yet (R79, R81) -/

theorem decodeWord_of_group2 {op : Word} (group : fieldC op = 0x2#4) : decodeWord op = .ok (.call (fieldNNN op)) := by
  unfold decodeWord
  rw [group]
  rfl

theorem decodeWord_of_groupB {op : Word} (group : fieldC op = 0xB#4) : decodeWord op = .ok (.jmpOff (fieldNNN op)) := by
  unfold decodeWord
  rw [group]
  rfl

theorem decodeWord_of_groupC {op : Word} (group : fieldC op = 0xC#4) :
    decodeWord op = .ok (.rnd (fieldX op) (fieldKK op)) := by
  unfold decodeWord
  rw [group]
  rfl

theorem decodeWord_of_groupD {op : Word} (group : fieldC op = 0xD#4) :
    decodeWord op = .ok (.drw (fieldX op) (fieldY op) (fieldN op)) := by
  unfold decodeWord
  rw [group]
  rfl

theorem decodeWord_of_groupE {op : Word} (group : fieldC op = 0xE#4) : decodeWord op = decodeGroupE op := by
  unfold decodeWord
  rw [group]
  rfl

theorem decodeWord_of_groupF {op : Word} (group : fieldC op = 0xF#4) : decodeWord op = decodeGroupF op := by
  unfold decodeWord
  rw [group]
  rfl

/-- Groups 0x5 and 0x9 are unmapped at every other last nibble (R86). -/
theorem decodeWord_of_group5_ne {op : Word} (group : fieldC op = 0x5#4) (last : fieldN op ≠ 0x0#4) :
    decodeWord op = .error (.unmapped op) := by
  unfold decodeWord
  rw [group]
  exact if_neg last

theorem decodeWord_of_group9_ne {op : Word} (group : fieldC op = 0x9#4) (last : fieldN op ≠ 0x0#4) :
    decodeWord op = .error (.unmapped op) := by
  unfold decodeWord
  rw [group]
  exact if_neg last

theorem nibble_cases (c : Nibble) :
    c = 0x0#4 ∨ c = 0x1#4 ∨ c = 0x2#4 ∨ c = 0x3#4 ∨ c = 0x4#4 ∨ c = 0x5#4 ∨ c = 0x6#4 ∨ c = 0x7#4 ∨
    c = 0x8#4 ∨ c = 0x9#4 ∨ c = 0xA#4 ∨ c = 0xB#4 ∨ c = 0xC#4 ∨ c = 0xD#4 ∨ c = 0xE#4 ∨ c = 0xF#4 := by
  revert c
  decide

/-! ## Decoding what was encoded -/

/-- Group 0x0's row of SCD: its low byte is none of the six fixed ones. -/
theorem decodeGroup0_scd (n : Nibble) : decodeGroup0 (asmXYN 0x0 0x0 0xC n) = .scd n := by
  revert n
  decide

/-- `kk` is the low byte of `nnn` (R74). -/
theorem extract_low_fieldNNN (op : Word) : (fieldNNN op).extractLsb' 0 8 = fieldKK op := by
  rw [← fieldXKK_append op]
  exact extract_append_low _ _

/-- The group 0x0 rows go through that group's dispatch; every other row is read back by its leading nibble and the last nibble or
low byte it fixes. -/
theorem decodeWord_encodeWord {i : Instr} (wf : i.wf = true) : decodeWord (encodeWord i) = .ok i := by
  cases i with
  | cls | ret | high | low | scr | scl => rfl
  | scd n => rw [encodeWord, decodeWord_of_group0 (by simp), decodeGroup0_scd]
  | sys nnn =>
    have unclaimed : claimedLowByte (fieldKK (asmNNN 0x0 nnn)) = false := by
      rw [← extract_low_fieldNNN, fieldNNN_asmNNN]
      exact (Bool.not_eq_true' _).mp wf
    rw [encodeWord, decodeWord_of_group0 (by simp), decodeGroup0_of_unclaimed unclaimed, fieldNNN_asmNNN]
  | _ => simp [encodeWord, decodeWord, decodeGroup8, decodeGroupE, decodeGroupF]

/-- Settles O45: the bytes of a word decode as the word does. -/
theorem decodeOfEncode : Obligations.DecodeOfEncode := by
  intro i rest wf
  rw [encode, decode_bytesOfWord, decodeWord_encodeWord wf]
  rfl

/-! ## Encoding what was decoded -/

/-- An instruction's own word is in its row. -/
theorem rowMatches_encodeWord (i : Instr) : i.rowMatches (encodeWord i) := by
  cases i with
  | cls | ret | high | low | scr | scl => rfl
  | scd _ => exact keepYN _ _ _ _
  | sys _ | jmp _ | call _ | ldIA _ | jmpOff _ => exact keepC_NNN _ _
  | sei _ _ | snei _ _ | ldVK _ _ | addVK _ _ | rnd _ _ => exact keepC_XKK _ _ _
  | drw _ _ _ => exact keepC_XYN _ _ _ _
  | ser _ _ | sner _ _ | ldVV _ _ | orVV _ _ | andVV _ _ | xorVV _ _ | addVV _ _ | sub _ _ | shr _ _ | subn _ _
  | shl _ _ => exact keepCN _ _ _ _
  | skp _ | sknp _ | ldVDT _ | ldVKey _ | ldDTV _ | ldSTV _ | addIV _ | ldFV _ | ldBV _ | ldMV _ | ldVM _ =>
    exact keepCKK _ _ _

/-- A word with nibble x cleared. -/
theorem and_clear_x (op : Word) : op &&& 0xF0FF#16 = asmXKK (fieldC op) 0x0 (fieldKK op) := by
  rw [← keepCKK (fieldC op) (fieldX op) (fieldKK op), asmXKK_fields]

/-- A low byte that is none of the six fixed ones, with a high nibble other than C, is claimed by no row (R78). -/
theorem claimedLowByte_eq_false {op : Word} (cls : fieldKK op ≠ 0xE0#8) (ret : fieldKK op ≠ 0xEE#8)
    (high : fieldKK op ≠ 0xFF#8) (low : fieldKK op ≠ 0xFE#8) (scr : fieldKK op ≠ 0xFB#8) (scl : fieldKK op ≠ 0xFC#8)
    (scd : fieldY op ≠ 0xC#4) : claimedLowByte (fieldKK op) = false := by
  simp [claimedLowByte, extract_high_fieldKK, cls, ret, high, low, scr, scl, scd]

/-! A word is assembled from the fields it has. -/

theorem asmNNN_of_field {op : Word} {c : Nibble} (hc : fieldC op = c) : asmNNN c (fieldNNN op) = op := by
  rw [← hc, asmNNN_fields]

theorem asmXKK_of_fields {op : Word} {c : Nibble} {kk : Byte} (hc : fieldC op = c) (hk : fieldKK op = kk) :
    asmXKK c (fieldX op) kk = op := by
  rw [← hc, ← hk, asmXKK_fields]

theorem asmXYN_of_fields {op : Word} {c n : Nibble} (hc : fieldC op = c) (hn : fieldN op = n) :
    asmXYN c (fieldX op) (fieldY op) n = op := by
  rw [← hc, ← hn, asmXYN_fields]

/-- Group 0x0: the fixed rows lose nibble x, SYS keeps its whole word. -/
theorem encodeWord_decodeGroup0 {op : Word} (group : fieldC op = 0x0#4) :
    (decodeGroup0 op).wf = true ∧
      (encodeWord (decodeGroup0 op) = op ∨ encodeWord (decodeGroup0 op) = op &&& 0xF0FF#16) := by
  rw [and_clear_x, group]
  unfold decodeGroup0
  split
  case h_7 cls ret high low scr scl =>
    split
    next scd =>
      refine ⟨rfl, .inr ?_⟩
      rw [← fieldYN_append, scd]
      exact BitVec.append_assoc
    next scd =>
      refine ⟨?_, .inl ?_⟩
      · rw [Instr.wf, extract_low_fieldNNN, claimedLowByte_eq_false cls ret high low scr scl scd]
        rfl
      · exact asmNNN_of_field group
  all_goals
    next low => exact ⟨rfl, .inr (by rw [low]; rfl)⟩

theorem encodeWord_decodeGroup8 {op : Word} {i : Instr} (group : fieldC op = 0x8#4) (h : decodeGroup8 op = .ok i) :
    i.wf = true ∧ encodeWord i = op := by
  unfold decodeGroup8 at h
  split at h
  all_goals cases h
  all_goals
    next last => exact ⟨rfl, asmXYN_of_fields group last⟩

theorem encodeWord_decodeGroupE {op : Word} {i : Instr} (group : fieldC op = 0xE#4) (h : decodeGroupE op = .ok i) :
    i.wf = true ∧ encodeWord i = op := by
  unfold decodeGroupE at h
  split at h
  all_goals cases h
  all_goals
    next low => exact ⟨rfl, asmXKK_of_fields group low⟩

theorem encodeWord_decodeGroupF {op : Word} {i : Instr} (group : fieldC op = 0xF#4) (h : decodeGroupF op = .ok i) :
    i.wf = true ∧ encodeWord i = op := by
  unfold decodeGroupF at h
  split at h
  all_goals cases h
  all_goals
    next low => exact ⟨rfl, asmXKK_of_fields group low⟩

/-- Outside group 0x0 a decoded word is the word of its instruction. -/
theorem encodeWord_of_decodeWord {op : Word} {i : Instr} (h : decodeWord op = .ok i) (group : fieldC op ≠ 0x0#4) :
    i.wf = true ∧ encodeWord i = op := by
  have same {j : Instr} (decoded : decodeWord op = .ok j) (own : j.wf = true ∧ encodeWord j = op) :
      i.wf = true ∧ encodeWord i = op := Except.ok.inj (decoded.symm.trans h) ▸ own
  rcases nibble_cases (fieldC op) with c | c | c | c | c | c | c | c | c | c | c | c | c | c | c | c
  · exact absurd c group
  · exact same (decodeWord_of_group1 c) ⟨rfl, asmNNN_of_field c⟩
  · exact same (decodeWord_of_group2 c) ⟨rfl, asmNNN_of_field c⟩
  · exact same (decodeWord_of_group3 c) ⟨rfl, asmXKK_of_fields c rfl⟩
  · exact same (decodeWord_of_group4 c) ⟨rfl, asmXKK_of_fields c rfl⟩
  · by_cases last : fieldN op = 0x0#4
    · exact same (decodeWord_of_group5 c last) ⟨rfl, asmXYN_of_fields c last⟩
    · exact nomatch (decodeWord_of_group5_ne c last).symm.trans h
  · exact same (decodeWord_of_group6 c) ⟨rfl, asmXKK_of_fields c rfl⟩
  · exact same (decodeWord_of_group7 c) ⟨rfl, asmXKK_of_fields c rfl⟩
  · exact encodeWord_decodeGroup8 c ((decodeWord_of_group8 c).symm.trans h)
  · by_cases last : fieldN op = 0x0#4
    · exact same (decodeWord_of_group9 c last) ⟨rfl, asmXYN_of_fields c last⟩
    · exact nomatch (decodeWord_of_group9_ne c last).symm.trans h
  · exact same (decodeWord_of_groupA c) ⟨rfl, asmNNN_of_field c⟩
  · exact same (decodeWord_of_groupB c) ⟨rfl, asmNNN_of_field c⟩
  · exact same (decodeWord_of_groupC c) ⟨rfl, asmXKK_of_fields c rfl⟩
  · exact same (decodeWord_of_groupD c) ⟨rfl, asmXYN_of_fields c rfl⟩
  · exact encodeWord_decodeGroupE c ((decodeWord_of_groupE c).symm.trans h)
  · exact encodeWord_decodeGroupF c ((decodeWord_of_groupF c).symm.trans h)

/-- Where the encoder clears nibble x, a row whose mask does not cover x still matches. -/
theorem rowMatches_of_clear_x {i : Instr} {op : Word} (encoded : encodeWord i = op &&& 0xF0FF#16)
    (mask : 0xF0FF#16 &&& i.row.mask = i.row.mask) : i.rowMatches op := by
  have own := rowMatches_encodeWord i
  rwa [Instr.rowMatches, encoded, BitVec.and_assoc, mask] at own

/-- The four masks of the map (R88). -/
theorem row_mask_cases (i : Instr) :
    i.row.mask = 0xF0FF#16 ∨ i.row.mask = 0xF0F0#16 ∨ i.row.mask = 0xF000#16 ∨ i.row.mask = 0xF00F#16 := by
  cases i <;> simp [Instr.row]

/-- None of them covers nibble x. -/
theorem clear_x_and_mask (i : Instr) : 0xF0FF#16 &&& i.row.mask = i.row.mask := by
  rcases row_mask_cases i with mask | mask | mask | mask <;> rw [mask] <;> decide

/-- Settles O46, by the leading nibble: outside group 0x0 the word is the one the encoder writes; in it, up to nibble x. -/
theorem decodedWordIsInItsRow : Obligations.DecodedWordIsInItsRow := by
  intro op i h
  by_cases group : fieldC op = 0x0#4
  · obtain rfl := Except.ok.inj ((decodeWord_of_group0 group).symm.trans h)
    obtain ⟨wf, encoded⟩ := encodeWord_decodeGroup0 group
    rcases encoded with kept | cleared
    · have own := rowMatches_encodeWord (decodeGroup0 op)
      rw [kept] at own
      exact ⟨wf, own, .inl kept⟩
    · exact ⟨wf, rowMatches_of_clear_x cleared (clear_x_and_mask _), .inr ⟨group, cleared⟩⟩
  · obtain ⟨wf, encoded⟩ := encodeWord_of_decodeWord h group
    exact ⟨wf, encoded ▸ rowMatches_encodeWord _, .inl encoded⟩

/-! ## The words that are rejected (R86) -/

theorem toNat_fieldC (op : Word) : (fieldC op).toNat = op.toNat / 4096 := by
  rw [fieldC, BitVec.extractLsb'_toNat, Nat.shiftRight_eq_div_pow]
  have := op.isLt
  omega

theorem toNat_fieldN (op : Word) : (fieldN op).toNat = op.toNat % 16 := by
  rw [fieldN, BitVec.extractLsb'_toNat, Nat.shiftRight_zero]

theorem toNat_fieldKK (op : Word) : (fieldKK op).toNat = op.toNat % 256 := by
  rw [fieldKK, BitVec.extractLsb'_toNat, Nat.shiftRight_zero]

theorem decodeGroup8_rejects_iff (op : Word) :
    decodeGroup8 op = .error (.unmapped op) ↔ (fieldN op).toNat ∈ [8, 9, 10, 11, 12, 13, 15] := by
  unfold decodeGroup8
  generalize fieldN op = n
  rcases nibble_cases n with c | c | c | c | c | c | c | c | c | c | c | c | c | c | c | c <;> subst c <;> simp

theorem decodeGroupE_rejects_iff (op : Word) :
    decodeGroupE op = .error (.unmapped op) ↔ (fieldKK op).toNat ∉ [0x9E, 0xA1] := by
  unfold decodeGroupE
  split <;> simp_all [← BitVec.toNat_inj]

theorem decodeGroupF_rejects_iff (op : Word) :
    decodeGroupF op = .error (.unmapped op) ↔
      (fieldKK op).toNat ∉ [0x07, 0x0A, 0x15, 0x18, 0x1E, 0x29, 0x33, 0x55, 0x65] := by
  unfold decodeGroupF
  split <;> simp_all [← BitVec.toNat_inj]

/-- The unmapped words by their fields. -/
theorem decodeWord_rejects_iff (op : Word) :
    decodeWord op = .error (.unmapped op) ↔
      ((fieldC op).toNat = 5 ∧ (fieldN op).toNat ≠ 0) ∨ ((fieldC op).toNat = 9 ∧ (fieldN op).toNat ≠ 0) ∨
      ((fieldC op).toNat = 8 ∧ (fieldN op).toNat ∈ [8, 9, 10, 11, 12, 13, 15]) ∨
      ((fieldC op).toNat = 14 ∧ (fieldKK op).toNat ∉ [0x9E, 0xA1]) ∨
      ((fieldC op).toNat = 15 ∧ (fieldKK op).toNat ∉ [0x07, 0x0A, 0x15, 0x18, 0x1E, 0x29, 0x33, 0x55, 0x65]) := by
  have last : fieldN op = 0x0#4 ↔ (fieldN op).toNat = 0 := BitVec.toNat_inj.symm
  rcases nibble_cases (fieldC op) with c | c | c | c | c | c | c | c | c | c | c | c | c | c | c | c
  · simp [decodeWord_of_group0 c, c]
  · simp [decodeWord_of_group1 c, c]
  · simp [decodeWord_of_group2 c, c]
  · simp [decodeWord_of_group3 c, c]
  · simp [decodeWord_of_group4 c, c]
  · by_cases n : fieldN op = 0x0#4
    · simp [decodeWord_of_group5 c n, c, n]
    · simp [decodeWord_of_group5_ne c n, c, mt last.mpr n]
  · simp [decodeWord_of_group6 c, c]
  · simp [decodeWord_of_group7 c, c]
  · rw [decodeWord_of_group8 c, decodeGroup8_rejects_iff]
    simp [c]
  · by_cases n : fieldN op = 0x0#4
    · simp [decodeWord_of_group9 c n, c, n]
    · simp [decodeWord_of_group9_ne c n, c, mt last.mpr n]
  · simp [decodeWord_of_groupA c, c]
  · simp [decodeWord_of_groupB c, c]
  · simp [decodeWord_of_groupC c, c]
  · simp [decodeWord_of_groupD c, c]
  · rw [decodeWord_of_groupE c, decodeGroupE_rejects_iff]
    simp [c]
  · rw [decodeWord_of_groupF c, decodeGroupF_rejects_iff]
    simp [c]

/-- Settles O47: a word is rejected under its own value or decodes; which ones, by their fields. -/
theorem rejectedWordsAreTheUnmapped : Obligations.RejectedWordsAreTheUnmapped := by
  intro op
  refine ⟨?_, ?_⟩
  · cases h : decodeWord op with
    | error e => exact .inl (by rw [decodeWord_error h])
    | ok i => exact .inr ⟨i, rfl⟩
  · rw [decodeWord_rejects_iff, toNat_fieldC, toNat_fieldN, toNat_fieldKK]

/-- Settles O48: the table of R92, evaluated. -/
theorem exampleWordsDecode : Obligations.ExampleWordsDecode := by
  unfold Obligations.ExampleWordsDecode
  decide

end Sys2Proof.Machine
end

section
/-! What every step keeps: it completes, its faults are precise, and the invariant holds (60_exceptions.md R150, R151). -/

namespace Sys2Proof.Machine

open Host.Outcome (next.inj)

/-! ## All that a CPU tick can answer -/

/-- What a CPU tick answers: nothing done, a precise fault that fits, or a completed instruction (or a word skipped as unmapped)
and some count of strobes. -/
inductive TickAnswers (s : State) : State → Prop where
  | idle : ¬s.CpuReady → TickAnswers s s
  | faulted (cause : Cause) (info : Nat) :
      s.CpuReady → FaultRecord.Fits ⟨cause, s.pc, info⟩ s → TickAnswers s (s.latchFault cause s.pc info)
  | completed (u : State) (draws : Nat) :
      s.CpuReady → s.pc.toNat < 0x0FFF → Completes (s.setPc (s.pc + 2#16)) u → TickAnswers s { u with draws }

/-- The fetch's advance of PC undone. -/
theorem fetched_pc_sub (s : State) : (s.setPc (s.pc + 2#16)).pc - 2#16 = s.pc := BitVec.add_sub_cancel s.pc 2#16

/-- A fault ends the tick without a strobe. -/
theorem finishTick_latchFault (s : State) (c : Cause) (a : Word) (info : Nat) :
    finishTick (.next (s.latchFault c a info)) = .next (s.latchFault c a info) := rfl

/-- An unmapped word faults precisely, or completes as a no-op (R152). -/
theorem finishTick_unmapped {s : State} (ready : s.CpuReady) (pc : s.pc.toNat < 0x0FFF)
    (unmapped : decodeWord s.wordAtPc = .error (.unmapped s.wordAtPc)) :
    ∃ t, finishTick (.next (unmappedWord s.wordAtPc (s.setPc (s.pc + 2#16)))) = .next t ∧ TickAnswers s t := by
  unfold unmappedWord
  split
  · rw [State.raise_eq_latchFault, fetched_pc_sub, finishTick_latchFault]
    refine ⟨_, rfl, .faulted _ _ ready ⟨rfl, pc, ?_⟩⟩
    rw [BitVec.ofNat_toNat, BitVec.setWidth_eq, unmapped]
  · obtain ⟨n, hn⟩ := finishTick_next_eq (s.setPc (s.pc + 2#16))
    exact ⟨_, hn, .completed _ n ready pc (.of_same rfl (.inl rfl))⟩
  · obtain ⟨n, hn⟩ := finishTick_next_eq (s.setPc (s.pc + 2#16)).stall
    exact ⟨_, hn, .completed _ n ready pc (.of_same rfl (.inr (.inr (.inl rfl))))⟩

/-- An instruction that a tick runs completes, or faults precisely. -/
theorem finishTick_exec {s : State} (i : Instr) (ready : s.CpuReady) (pc : s.pc.toNat < 0x0FFF) :
    ∃ t, finishTick (exec i (s.setPc (s.pc + 2#16))) = .next t ∧ TickAnswers s t := by
  obtain ⟨u, hu, completes | ⟨c, info, rfl, why⟩⟩ := exec_answers i (s.setPc (s.pc + 2#16))
  · obtain ⟨n, hn⟩ := finishTick_next_eq u
    exact ⟨_, by rw [hu, hn], .completed u n ready pc completes⟩
  · rw [hu, fetched_pc_sub, finishTick_latchFault]
    refine ⟨_, rfl, .faulted c info ready ⟨rfl, ?_⟩⟩
    rcases why with ⟨rfl, bounds⟩ | ⟨rfl, limit, full⟩
    · exact ⟨pc, bounds⟩
    · exact ⟨pc, limit, full⟩

theorem cpuTick_answers (s : State) : ∃ t, cpuTick s = .next t ∧ TickAnswers s t := by
  rcases cpuTick_cases s with ⟨notReady, idle⟩ | ⟨ready, pc, fetchFault⟩ | ⟨ready, pc, rejected, unmapped⟩ |
    ⟨i, ready, pc, -, executed⟩
  · exact ⟨s, idle, .idle notReady⟩
  · exact ⟨_, fetchFault, .faulted _ _ ready ⟨rfl, pc, rfl⟩⟩
  · rw [unmapped]
    exact finishTick_unmapped ready pc rejected
  · rw [executed]
    exact finishTick_exec i ready pc

theorem tickAnswers_of_cpuTick {s t : State} (h : cpuTick s = .next t) : TickAnswers s t := by
  obtain ⟨u, hu, answers⟩ := cpuTick_answers s
  rwa [← next.inj (hu.symm.trans h)]

/-! ## Every step completes -/

theorem handleEvent_completes (e : Event) (s : State) : ∃ t, handleEvent e s = .next t := by
  cases e with
  | cpuTick =>
    obtain ⟨t, ht, -⟩ := cpuTick_answers s
    exact ⟨t, ht⟩
  | _ => exact ⟨_, rfl⟩

/-- Settles O51: every event answers a next state, a CPU tick by what it can answer. -/
theorem everyStepCompletes : Obligations.EveryStepCompletes :=
  fun s => handleEvent_completes s.nextEvent s.takeEvent

/-! ## Faults -/

theorem onReset_fault (s : State) : s.onReset.fault = none := rfl

theorem onLoadRom_fault (s : State) (bytes : List Byte) : (s.onLoadRom bytes).fault = none := by
  unfold State.onLoadRom
  split <;> rfl

/-- An event that is no CPU tick, no `reset` and no `load_rom` leaves FAULT as it is. -/
theorem handleEvent_keeps_fault {e : Event} {s t : State} (h : handleEvent e s = .next t) (tick : e ≠ .cpuTick)
    (reset : e ≠ .reset) (load : ∀ bs, e ≠ .loadRom bs) : t.fault = s.fault := by
  obtain ⟨u, hu, keeps⟩ := handleEvent_keeps s tick reset load
  rw [← next.inj (hu.symm.trans h), keeps]

/-- Settles O36: a latched fault makes the CPU not ready; no event but `reset` and `load_rom` writes FAULT then. -/
theorem latchedFaultHolds : Obligations.LatchedFaultHolds := by
  intro s f latched
  have notReady : ¬s.CpuReady := fun ⟨_, noFault, _⟩ => nomatch latched.symm.trans noFault
  refine ⟨fun about => step_of_not_cpuReady about notReady, fun t h reset load => ?_, fun clears => ?_⟩
  · by_cases tick : s.nextEvent = .cpuTick
    · rw [← next.inj ((step_of_not_cpuReady tick notReady).symm.trans h)]
      exact latched
    · exact (handleEvent_keeps_fault h tick reset load).trans latched
  · rw [step, stepEvent]
    rcases clears with reset | ⟨bs, load⟩
    · rw [reset]
      exact ⟨_, rfl, onReset_fault _⟩
    · rw [load]
      exact ⟨_, rfl, onLoadRom_fault _ bs⟩

/-- A CPU tick that ends with a fault, from none, has done nothing but latch it. -/
theorem cpuTick_fault_precise {s t : State} {f : FaultRecord} (noFault : s.fault = none) (h : cpuTick s = .next t)
    (latched : t.fault = some f) : t = { s with fault := some f } ∧ f.pc = s.pc := by
  cases tickAnswers_of_cpuTick h with
  | idle => exact nomatch noFault.symm.trans latched
  | faulted cause info =>
    obtain rfl := Option.some.inj latched
    exact ⟨rfl, rfl⟩
  | completed u n _ _ completes => exact nomatch noFault.symm.trans (completes.fault.symm.trans latched)

/-- Settles O37: only a CPU tick latches a fault, and that tick changes nothing else. -/
theorem faultsArePrecise : Obligations.FaultsArePrecise := by
  intro s t f noFault h latched
  rw [step, stepEvent] at h
  by_cases tick : s.nextEvent = .cpuTick
  · rw [tick] at h
    exact cpuTick_fault_precise (s := s.takeEvent) noFault h latched
  by_cases reset : s.nextEvent = .reset
  · rw [reset] at h
    rw [← next.inj h, onReset_fault] at latched
    cases latched
  by_cases load : ∃ bs, s.nextEvent = .loadRom bs
  · obtain ⟨bs, load⟩ := load
    rw [load] at h
    rw [← next.inj h, onLoadRom_fault] at latched
    cases latched
  · have kept := handleEvent_keeps_fault h tick reset (not_exists.mp load)
    exact nomatch noFault.symm.trans (kept.symm.trans latched)

/-! ## The invariant -/

/-- What a fault record says of a state is a matter of its PC, parameters and stack. -/
theorem FaultRecord.fits_congr {f : FaultRecord} {s t : State} (pc : t.pc = s.pc) (par : t.par = s.par)
    (stack : t.stack = s.stack) (fits : f.Fits s) : f.Fits t := by
  rwa [Fits, pc, par, stack]

/-- A state that agrees with a sound one but for SPEED and the keypad. -/
theorem State.Inv.of_kept {s t : State} (inv : s.Inv) (mem : t.mem = s.mem) (pc : t.pc = s.pc) (par : t.par = s.par)
    (stack : t.stack = s.stack) (fault : t.fault = s.fault) (speed : 0 < t.speed.value)
    (key : (t.pressed ∨ t.kdl) → t.key.isSome) : t.Inv where
  memory := mem ▸ inv.memory
  speed := speed
  pc := pc ▸ inv.pc
  returns := stack ▸ inv.returns
  depth := by rw [par, stack]; exact inv.depth
  key := key
  fault f hf := FaultRecord.fits_congr pc par stack (inv.fault f (fault ▸ hf))

/-- A fault latched at PC, when it fits. -/
theorem State.Inv.of_latchFault {s : State} (inv : s.Inv) {cause : Cause} {info : Nat}
    (fits : FaultRecord.Fits ⟨cause, s.pc, info⟩ s) : (s.latchFault cause s.pc info).Inv where
  memory := inv.memory
  speed := inv.speed
  pc := inv.pc
  returns := inv.returns
  depth := inv.depth
  key := inv.key
  fault f hf := by
    obtain rfl := Option.some.inj hf
    exact fits

/-- A completed instruction: PC and the stack by what Completes allows of them from a fetch below 0x0FFF. -/
theorem State.Inv.of_completes {s u : State} (inv : s.Inv) (ready : s.CpuReady) (low : s.pc.toNat < 0x0FFF)
    (h : Completes (s.setPc (s.pc + 2#16)) u) : u.Inv := by
  have advanced : (s.pc + 2#16).toNat = s.pc.toNat + 2 := by bv_omega
  obtain ⟨-, noFault, -⟩ := ready
  refine ⟨h.memory inv.memory, h.speed ▸ inv.speed, ?_, ?_, ?_, ?_, ?_⟩
  · rcases h.pc with pc | pc | pc | pc | pc
    · rw [pc, State.setPc_pc]; omega
    · rw [pc, State.setPc_pc]; bv_omega
    · rw [pc, fetched_pc_sub]; omega
    · have := inv.returns _ pc
      omega
    · exact pc
  · rcases h.stack with stack | ⟨a, stack⟩ | ⟨stack, -⟩
    · rw [stack]; exact inv.returns
    · exact fun b hb => inv.returns b (stack ▸ List.mem_cons_of_mem a hb)
    · rw [stack]
      refine List.forall_mem_cons.mpr ⟨?_, inv.returns⟩
      rw [State.setPc_pc]; omega
  · intro bound limit
    rw [h.par] at limit
    rcases h.stack with stack | ⟨a, stack⟩ | ⟨stack, room⟩
    · rw [stack]; exact inv.depth bound limit
    · have := inv.depth bound limit
      rw [show s.stack = a :: u.stack from stack, List.length_cons] at this
      omega
    · rw [stack, List.length_cons]
      exact room bound limit
  · rw [h.pressed, h.key]
    exact fun down => inv.key (down.imp_right h.kdl)
  · intro f hf
    exact nomatch noFault.symm.trans (h.fault.symm.trans hf)

theorem cpuTick_keeps_inv {s t : State} (inv : s.Inv) (h : cpuTick s = .next t) : t.Inv := by
  cases tickAnswers_of_cpuTick h with
  | idle => exact inv
  | faulted cause info _ fits => exact inv.of_latchFault fits
  | completed u n ready pc completes =>
    have done := inv.of_completes ready pc completes
    exact done.of_kept rfl rfl rfl rfl rfl done.speed done.key

theorem onReset_inv {s : State} (inv : s.Inv) : s.onReset.Inv where
  memory := Memory.wf_clear inv.memory
  speed := inv.speed
  pc := by show (BitVec.ofNat 16 progBase).toNat ≤ 0x10FE; decide
  returns _ h := nomatch h
  depth _ _ := Nat.zero_le _
  key down := inv.key (down.imp_right fun h => nomatch h)
  fault _ h := nomatch h

/-- Memory in canonical form may replace memory. -/
theorem State.Inv.with_mem {s : State} (inv : s.Inv) {m : Memory} (wf : m.wf) (ok : Bool) :
    State.Inv { s with mem := m, loadOk := ok } :=
  ⟨wf, inv.speed, inv.pc, inv.returns, inv.depth, inv.key, inv.fault⟩

theorem onLoadRom_inv {s : State} (inv : s.Inv) (bytes : List Byte) : (s.onLoadRom bytes).Inv := by
  have reset := onReset_inv inv
  have font := Memory.wf_writeBytes reset.memory fontBase fontTable
  unfold State.onLoadRom
  split
  · exact reset.with_mem (Memory.wf_writeBytes font _ _) true
  · exact reset.with_mem font false

/-- The invariant's two clauses on the host's state, over the events that write it: `set_speed` and the keypad's. -/
theorem handleEvent_keeps_host_clauses {e : Event} {s t : State} (inv : s.Inv) (h : handleEvent e s = .next t)
    (tick : e ≠ .cpuTick) (reset : e ≠ .reset) (load : ∀ bs, e ≠ .loadRom bs) :
    0 < t.speed.value ∧ ((t.pressed ∨ t.kdl) → t.key.isSome) := by
  cases e with
  | cpuTick => exact absurd rfl tick
  | reset => exact absurd rfl reset
  | loadRom bs => exact absurd rfl (load bs)
  | setSound _ => rw [← next.inj h]; exact ⟨inv.speed, inv.key⟩
  | timerTick => rw [← next.inj h, State.onTimerTick]; split <;> exact ⟨inv.speed, inv.key⟩
  | keyDown k =>
    rw [← next.inj h, State.onKeyDown]
    split
    · exact ⟨inv.speed, fun _ => rfl⟩
    · exact ⟨inv.speed, inv.key⟩
  | keyUp k =>
    rw [← next.inj h, State.onKeyUp]
    split
    · exact ⟨inv.speed, fun down => inv.key (.inr (down.resolve_left (nomatch ·)))⟩
    · exact ⟨inv.speed, inv.key⟩
  | start => rw [← next.inj h, State.onStart]; split <;> exact ⟨inv.speed, inv.key⟩
  | pause => rw [← next.inj h, State.onPause]; split <;> exact ⟨inv.speed, inv.key⟩
  | resume => rw [← next.inj h, State.onResume]; split <;> exact ⟨inv.speed, inv.key⟩
  | setSpeed f =>
    rw [← next.inj h]
    refine ⟨onSetSpeed_pos s f inv.speed, ?_⟩
    unfold State.onSetSpeed
    split <;> exact inv.key

theorem handleEvent_keeps_inv {e : Event} {s t : State} (inv : s.Inv) (h : handleEvent e s = .next t) : t.Inv := by
  by_cases tick : e = .cpuTick
  · subst tick
    exact cpuTick_keeps_inv inv h
  by_cases reset : e = .reset
  · subst reset
    rw [← next.inj h]
    exact onReset_inv inv
  by_cases load : ∃ bytes, e = .loadRom bytes
  · obtain ⟨bytes, rfl⟩ := load
    rw [← next.inj h]
    exact onLoadRom_inv inv bytes
  · obtain ⟨speed, key⟩ := handleEvent_keeps_host_clauses inv h tick reset (not_exists.mp load)
    obtain ⟨u, hu, keeps⟩ := handleEvent_keeps s tick reset (not_exists.mp load)
    obtain rfl := next.inj (hu.symm.trans h)
    exact inv.of_kept (by rw [keeps]) (by rw [keeps]) (by rw [keeps]) (by rw [keeps]) (by rw [keeps]) speed key

/-- Settles O50: taking the event off the list changes nothing the invariant speaks of, and every event keeps it. -/
theorem stepKeepsInv : Obligations.StepKeepsInv := by
  intro s t inv h
  have taken : s.takeEvent.Inv := inv.of_kept rfl rfl rfl rfl rfl inv.speed inv.key
  exact handleEvent_keeps_inv taken h

/-- Settles O49: memory lists nothing, SPEED is 1, PC is 0x200, and there is no stack, no key and no fault. -/
theorem invAtPowerOn : Obligations.InvAtPowerOn := fun par =>
  { memory := Memory.wf_nil
    speed := by simp [State.construct]
    pc := by show (BitVec.ofNat 16 progBase).toNat ≤ 0x10FE; decide
    returns := fun _ h => nomatch h
    depth := fun _ _ => Nat.zero_le _
    key := by simp [State.construct]
    fault := fun _ h => nomatch h }

end Sys2Proof.Machine
end

section
/-! What a ready CPU tick runs (30_encoding.md R82 to R85, 60_exceptions.md R152). -/

namespace Sys2Proof.Machine

/-! ## The four outcomes of a tick, each from its conditions -/

theorem cpuTick_of_decoded {s : State} {i : Instr} (ready : s.CpuReady) (pc : s.pc.toNat < 0x0FFF)
    (decoded : decodeWord s.wordAtPc = .ok i) : cpuTick s = finishTick (exec i (s.setPc (s.pc + 2#16))) := by
  rcases cpuTick_cases s with ⟨notReady, -⟩ | ⟨-, outside, -⟩ | ⟨-, -, unmapped, -⟩ | ⟨j, -, -, ran, executed⟩
  · exact absurd ready notReady
  · omega
  · exact nomatch decoded.symm.trans unmapped
  · obtain rfl : i = j := Except.ok.inj (decoded.symm.trans ran)
    exact executed

theorem cpuTick_of_unmapped {s : State} {e : DecodeReject} (ready : s.CpuReady) (pc : s.pc.toNat < 0x0FFF)
    (rejected : decodeWord s.wordAtPc = .error e) :
    cpuTick s = finishTick (.next (unmappedWord s.wordAtPc (s.setPc (s.pc + 2#16)))) := by
  rcases cpuTick_cases s with ⟨notReady, -⟩ | ⟨-, outside, -⟩ | ⟨-, -, -, unmapped⟩ | ⟨j, -, -, ran, -⟩
  · exact absurd ready notReady
  · omega
  · exact unmapped
  · exact nomatch rejected.symm.trans ran

theorem cpuTick_of_fetch_out_of_bounds {s : State} (ready : s.CpuReady) (pc : 0x0FFF ≤ s.pc.toNat) :
    cpuTick s = .next (s.latchFault .fetchBounds s.pc (max s.pc.toNat memSize)) := by
  rcases cpuTick_cases s with ⟨notReady, -⟩ | ⟨-, -, fetchFault⟩ | ⟨-, inside, -⟩ | ⟨j, -, inside, -⟩
  · exact absurd ready notReady
  · exact fetchFault
  · omega
  · omega

/-- The end of a tick with no fault latched gives the strobe. -/
theorem finishTick_of_no_fault {t : State} (noFault : t.fault = none) : finishTick (.next t) = .next t.strobe := by
  rw [finishTick_next, noFault]
  rfl

/-- PC written back to where it was. -/
theorem State.setPc_setPc_self (s : State) (a : Word) : (s.setPc a).setPc s.pc = s := rfl

/-! ## The statements -/

/-- Settles O31: decoding the two bytes is decoding the word they make; the end of the tick is the strobe, unless faulted. -/
theorem stepRunsDecodedInstruction : Obligations.StepRunsDecodedInstruction := by
  intro s t i about ready pc decoded executed
  have word : decodeWord s.wordAtPc = .ok i := by
    rw [State.wordAtPc]
    simp only [decode] at decoded
    split at decoded
    next j ok => rw [ok, (Prod.mk.inj (Except.ok.inj decoded)).1]
    next => cases decoded
  rw [step_of_aboutToTick about, cpuTick_of_decoded (s := s.takeEvent) ready pc word]
  calc finishTick (exec i (s.takeEvent.setPc (s.takeEvent.pc + 2#16)))
      = finishTick (.next t) := congrArg finishTick executed
    _ = .next (if t.fault = none then { t with draws := t.draws + 1 } else t) := by
        cases noFault : t.fault <;> simp [noFault, State.strobe]

/-- Settles O33: the fetch finds the lowest address out of range before anything is read. -/
theorem fetchOutOfBoundsFaults : Obligations.FetchOutOfBoundsFaults := by
  intro s about ready pc
  have lowest : (if 0x1000 ≤ s.pc.toNat then s.pc.toNat else 0x1000) = max s.pc.toNat memSize := by
    unfold memSize
    split <;> omega
  rw [step_of_aboutToTick about, cpuTick_of_fetch_out_of_bounds (s := s.takeEvent) ready pc, lowest]
  rfl

/-- Settles O32: the three policies of R152, each after a fetch that has advanced PC. -/
theorem unmappedWordFollowsPolicy : Obligations.UnmappedWordFollowsPolicy := by
  intro s e about ready pc rejected
  have tick := cpuTick_of_unmapped (s := s.takeEvent) ready pc rejected
  have advanced := fetched_pc_sub s.takeEvent
  obtain ⟨-, noFault, -⟩ := ready
  rw [step_of_aboutToTick about, tick]
  refine ⟨fun policy => ?_, fun policy => ?_, fun policy => ?_⟩
  · have policy : (s.takeEvent.setPc (s.takeEvent.pc + 2#16)).par.unmappedPolicy = .fault := policy
    rw [unmappedWord, policy, State.raise_eq_latchFault, advanced]
    rfl
  · have policy : (s.takeEvent.setPc (s.takeEvent.pc + 2#16)).par.unmappedPolicy = .nopAdvance := policy
    rw [unmappedWord, policy]
    exact finishTick_of_no_fault noFault
  · have policy : (s.takeEvent.setPc (s.takeEvent.pc + 2#16)).par.unmappedPolicy = .nopStall := policy
    rw [unmappedWord, policy, State.stall_eq_setPc, advanced]
    exact finishTick_of_no_fault noFault

/-- Settles O35: a display wait makes the CPU not ready. -/
theorem displayWaitSkipsTick : Obligations.DisplayWaitSkipsTick := by
  intro s about wait int
  have notReady : ¬s.CpuReady := fun ⟨_, _, noWait⟩ => noWait ⟨wait, int⟩
  exact step_of_not_cpuReady about notReady

/-! ## The key wait (45_keys_timers.md R145) -/

/-- Not armed, LD_VKEY arms and stalls. -/
theorem exec_ldVKey_arms {s : State} (x : Nibble) (kw : s.kw = false) :
    exec (.ldVKey x) s = .next ((s.setKeyWait true false).setPc (s.pc - 2#16)) := by
  simp [exec, execLdVKey, kw]

/-- Armed, with no key down since, it stalls. -/
theorem exec_ldVKey_waits {s : State} (x : Nibble) (kw : s.kw = true) (kdl : s.kdl = false) :
    exec (.ldVKey x) s = .next (s.setPc (s.pc - 2#16)) := by
  simp [exec, execLdVKey, kw, kdl]

/-- Armed and with the latch set, it stores the key and disarms. -/
theorem exec_ldVKey_completes {s : State} (x : Nibble) {k : Nibble} (kw : s.kw = true) (kdl : s.kdl = true)
    (key : s.key = some k) : exec (.ldVKey x) s = .next ((s.setV x (k.setWidth 8)).setKeyWait false false) := by
  simp [exec, execLdVKey, kw, kdl, key]

/-- Armed, with the latch set and no key known, which no run reaches, it stalls (log 9). -/
theorem exec_ldVKey_keyless {s : State} (x : Nibble) (kw : s.kw = true) (kdl : s.kdl = true) (key : s.key = none) :
    exec (.ldVKey x) s = .next (s.setPc (s.pc - 2#16)) := by
  simp [exec, execLdVKey, kw, kdl, key]

/-- All that LD_VKEY can answer: it arms, it stalls, or it stores a key. -/
theorem exec_ldVKey_cases (x : Nibble) (s : State) :
    exec (.ldVKey x) s = .next ((s.setKeyWait true false).setPc (s.pc - 2#16)) ∨
    exec (.ldVKey x) s = .next (s.setPc (s.pc - 2#16)) ∨
    ∃ b, exec (.ldVKey x) s = .next ((s.setV x b).setKeyWait false false) := by
  cases kw : s.kw with
  | false => exact .inl (exec_ldVKey_arms x kw)
  | true =>
    cases kdl : s.kdl with
    | false => exact .inr (.inl (exec_ldVKey_waits x kw kdl))
    | true =>
      cases key : s.key with
      | none => exact .inr (.inl (exec_ldVKey_keyless x kw kdl key))
      | some k => exact .inr (.inr ⟨_, exec_ldVKey_completes x kw kdl key⟩)

/-- Settles O29: the three answers of LD_VKEY, from KW, KDL and KEY. -/
theorem keyWaitArmsWaitsCompletes : Obligations.KeyWaitArmsWaitsCompletes := by
  intro s x
  refine ⟨fun kw => exec_ldVKey_arms x kw, fun kw kdl => exec_ldVKey_waits x kw kdl, fun k kw kdl key => ?_⟩
  refine ⟨_, exec_ldVKey_completes x kw kdl key, rfl, fun r => ?_⟩
  rw [State.reg_setKeyWait, State.reg_setV, BitVec.ofNat_toNat]
  exact if_congr eq_comm rfl rfl

/-- Settles O30: the stall takes back the advance of the fetch. -/
theorem keyWaitIsIdempotent : Obligations.KeyWaitIsIdempotent := by
  intro s x about ready pc decoded kw kdl
  have waits := exec_ldVKey_waits (s := s.takeEvent.setPc (s.takeEvent.pc + 2#16)) x kw kdl
  rw [fetched_pc_sub, State.setPc_setPc_self] at waits
  rw [step_of_aboutToTick about, cpuTick_of_decoded (s := s.takeEvent) ready pc decoded, waits]
  obtain ⟨-, noFault, -⟩ := ready
  exact finishTick_of_no_fault noFault

end Sys2Proof.Machine
end

section
/-! The events that are no CPU ticks: the timer tick, `key_down` and the host's commands (60_exceptions.md R159 to R170). -/

namespace Sys2Proof.Machine

/-! ## The timer tick (R159, R160) -/

theorem State.onTimerTick_of_timersRun {s : State} (runs : s.timersRun = true) : s.onTimerTick = s.timerTick := if_pos runs

theorem State.onTimerTick_of_not_timersRun {s : State} (stopped : s.timersRun = false) : s.onTimerTick = s := by
  rw [onTimerTick, stopped]
  rfl

theorem State.timersRun_of {s : State}
    (h : s.run = .running ∨ (s.run = .paused ∧ s.par.pauseGatesTimers = false)) : s.timersRun = true := by
  rcases h with running | ⟨paused, free⟩
  · simp [timersRun, running]
  · simp [timersRun, paused, free]

theorem State.not_timersRun_of {s : State}
    (h : s.run = .idle ∨ (s.run = .paused ∧ s.par.pauseGatesTimers = true)) : s.timersRun = false := by
  rcases h with idle | ⟨paused, gated⟩
  · simp [timersRun, idle]
  · simp [timersRun, paused, gated]

/-- SOUND_ON after a timer tick: ST was above 1, so that it is above 0 now, and sound is enabled. -/
theorem State.timerTick_soundOn_iff (s : State) :
    s.timerTick.soundOn = true ↔ 1 < s.st.toNat ∧ s.soundEn = true := by
  have counted : countDown s.st ≠ 0#8 ↔ 1 < s.st.toNat := by
    rw [Ne, ← BitVec.toNat_inj, countDown_toNat]
    simp only [BitVec.toNat_ofNat]
    omega
  rw [← counted]
  simp [timerTick]

/-- Settles O38, by whether the timers run in this lifecycle state. -/
theorem timerTickCountsDown : Obligations.TimerTickCountsDown := by
  intro s rest waiting
  rw [step_of_inputs waiting, handleEvent]
  refine ⟨fun runs => ?_, fun stopped => ?_⟩
  · rw [State.onTimerTick_of_timersRun (State.timersRun_of (s := { s with inputs := rest }) runs)]
    exact ⟨_, rfl, rfl, countDown_toNat s.dt, countDown_toNat s.st, s.timerTick_soundOn_iff⟩
  · rw [State.onTimerTick_of_not_timersRun (State.not_timersRun_of (s := { s with inputs := rest }) stopped)]

/-! ## The keypad (10_state.md R41) -/

theorem State.onKeyDown_of_keyCode (s : State) {k : Int} (h : 0 ≤ k ∧ k ≤ 15) :
    s.onKeyDown k = { s with key := some (BitVec.ofInt 4 k), pressed := true, kdl := true } :=
  if_pos ((isKeyCode_iff k).mpr h)

theorem State.onKeyDown_of_not_keyCode (s : State) {k : Int} (h : ¬(0 ≤ k ∧ k ≤ 15)) : s.onKeyDown k = s :=
  if_neg (mt (isKeyCode_iff k).mp h)

/-- Settles O39, by whether `k` is a key code. -/
theorem keyDownStoresKey : Obligations.KeyDownStoresKey := by
  intro s rest k waiting
  rw [step_of_inputs waiting, handleEvent]
  constructor
  · intro code
    have natural : BitVec.ofInt 4 k = BitVec.ofNat 4 k.toNat := by
      rw [← BitVec.ofInt_natCast, Int.toNat_of_nonneg code.1]
    rw [State.onKeyDown_of_keyCode _ code, natural]
  · intro other
    rw [State.onKeyDown_of_not_keyCode _ (by omega)]

/-! ## The host's commands (R168 to R170) -/

/-- A lifecycle command moves RUN from one state to another, and is ignored in any other. -/
theorem run_update (s : State) (old new : Lifecycle) :
    (if s.run = old then { s with run := new } else s) = { s with run := if s.run = old then new else s.run } := by
  split <;> rfl

/-- Settles O41, command by command; `set_speed` by the sign of its factor. -/
theorem hostCommands : Obligations.HostCommands := by
  intro s rest f b
  refine ⟨fun w => ?_, fun w => ?_, fun w => ?_, fun w pos => ?_, fun w notPos => ?_, fun w => ?_⟩
  all_goals rw [step_of_inputs w, handleEvent]
  · rw [State.onStart, run_update]
  · rw [State.onPause, run_update]
  · rw [State.onResume, run_update]
  · rw [onSetSpeed_of_pos _ pos]
  · rw [onSetSpeed_of_not_pos _ (not_lt.mpr notPos)]
  · rfl

/-! ## Reset and ROM load (70_reset_and_hazards.md R179 to R184) -/

/-- Every register of a cleared register file. -/
theorem State.reg_of_replicate {s : State} (cleared : s.v = Vector.replicate 16 0#8) (r : Nibble) : s.reg r = 0#8 := by
  rw [reg_eq]
  simp [cleared]

/-- Settles O42: what `reset` writes, and what it clears by the laws of memory and the framebuffer. -/
theorem resetEvent : Obligations.ResetEvent := by
  intro s rest waiting
  rw [step_of_inputs waiting, handleEvent]
  exact ⟨_, rfl, rfl, State.reg_of_replicate rfl, Grid.pixel_blank, Memory.read_clear s.mem⟩

/-- The machine's font is the one the statements write out. -/
theorem fontTable_eq_r60Font : fontTable = r60Font := rfl

/-- The font written over memory: its 80 bytes at 0x050, every other address as before. -/
theorem Memory.read_writeFont (m : Memory) (a : Nat) :
    (m.writeBytes fontBase fontTable).read a =
      if 0x050 ≤ a ∧ a < 0x0A0 then r60Font.getD (a - 0x050) 0#8 else m.read a := by
  rw [← fontTable_eq_r60Font]
  exact Memory.read_writeBytes m fontBase fontTable (by decide) a

/-- Memory after the reset's clear and the font. -/
theorem onReset_read_font (s : State) (a : Nat) :
    (s.onReset.mem.writeBytes fontBase fontTable).read a =
      if 0x050 ≤ a ∧ a < 0x0A0 then r60Font.getD (a - 0x050) 0#8
      else if a < 0x200 then s.mem.read a else 0#8 := by
  have cleared : s.onReset.mem.read a = if 0x200 ≤ a then 0#8 else s.mem.read a := Memory.read_clear s.mem a
  rw [Memory.read_writeFont, cleared]
  by_cases high : 0x200 ≤ a
  · rw [if_pos high, if_neg (not_lt.mpr high)]
  · rw [if_neg high, if_pos (not_le.mp high)]

/-- Memory after a ROM that fits is loaded over that (R183). -/
theorem onReset_read_rom (s : State) {bs : List Byte} (fits : bs.length ≤ 3584) {a : Nat} (inMemory : a < 0x1000) :
    ((s.onReset.mem.writeBytes fontBase fontTable).writeBytes progBase bs).read a =
      if 0x050 ≤ a ∧ a < 0x0A0 then r60Font.getD (a - 0x050) 0#8
      else if a < 0x200 then s.mem.read a else bs.getD (a - 0x200) 0#8 := by
  have range : progBase + bs.length ≤ memSize := by unfold progBase memSize; omega
  rw [Memory.read_writeBytes _ _ _ range, onReset_read_font]
  unfold progBase
  by_cases inside : 0x200 ≤ a ∧ a < 0x200 + bs.length
  · rw [if_pos inside, if_neg (by omega), if_neg (by omega)]
  · rw [if_neg inside]
    by_cases high : 0x200 ≤ a
    · have past : bs.getD (a - 0x200) 0#8 = 0#8 := List.getD_eq_default _ _ (by omega)
      rw [past]
    · simp only [show a < 0x200 by omega, if_true]

/-- A ROM that fits is copied over the reset's memory and the font. -/
theorem State.onLoadRom_of_fits (s : State) {bs : List Byte} (fits : bs.length ≤ romMax) :
    s.onLoadRom bs = { s.onReset with
      mem := (s.onReset.mem.writeBytes fontBase fontTable).writeBytes progBase bs, loadOk := true } :=
  if_pos fits

/-- A longer one leaves the reset and the font alone (R184). -/
theorem State.onLoadRom_of_not_fits (s : State) {bs : List Byte} (long : ¬bs.length ≤ romMax) :
    s.onLoadRom bs = { s.onReset with mem := s.onReset.mem.writeBytes fontBase fontTable, loadOk := false } :=
  if_neg long

/-- Settles O43, by whether the ROM fits: the reset's frame, then what memory reads after the font and the ROM. -/
theorem loadRomEvent : Obligations.LoadRomEvent := by
  intro s rest bs waiting
  rw [step_of_inputs waiting, handleEvent]
  by_cases fits : bs.length ≤ 3584
  · rw [State.onLoadRom_of_fits _ fits, decide_eq_true fits]
    refine ⟨_, rfl, rfl, State.reg_of_replicate rfl, Grid.pixel_blank, fun a inMemory => ?_⟩
    rw [if_pos fits]
    exact onReset_read_rom { s with inputs := rest } fits inMemory
  · have reads := onReset_read_font { s with inputs := rest }
    rw [State.onLoadRom_of_not_fits _ fits, decide_eq_false fits]
    generalize Memory.writeBytes _ fontBase fontTable = font at reads ⊢
    refine ⟨_, rfl, rfl, State.reg_of_replicate rfl, Grid.pixel_blank, fun a _ => ?_⟩
    rw [if_neg fits]
    exact reads a

/-! ## Construction (R178) -/

/-- What memory with nothing listed reads as (20_memory.md R63). -/
theorem Memory.read_nil (a : Nat) :
    Memory.read [] a = if 0x050 ≤ a ∧ a < 0x0A0 then r60Font.getD (a - 0x050) 0#8 else 0#8 := rfl

/-- Settles O44: every field as `State.construct` gives it. -/
theorem powerOnState : Obligations.PowerOnState := by
  intro par
  have speed : (State.construct par).speed.value = 1 := by simp [State.construct]
  exact ⟨State.reg_of_replicate rfl, rfl, rfl, rfl, rfl, rfl, rfl, Grid.pixel_blank, rfl, rfl, rfl, rfl, rfl, rfl, rfl, speed,
    rfl, rfl, rfl, rfl, rfl, rfl, rfl, rfl, rfl, Memory.read_nil⟩

/-! ## The outputs (R165, R171) -/

/-- Settles O57: the periods are reciprocals, in which SPEED is a factor. -/
theorem speedScalesBothPeriods : Obligations.SpeedScalesBothPeriods := by
  intro s f c speed cpuHz pos scaled
  have hz : (timerHz : ℝ) = 60 := by norm_num [timerHz]
  simp only [State.cpuPeriod, State.timerPeriod, scaled, hz]
  refine ⟨?_, ?_, ?_⟩ <;> field_simp

/-- Settles O58: the LOW accessor is the AND of the block, cell by cell. -/
theorem viewIsBlockAnd : Obligations.ViewIsBlockAnd := by
  intro s x y
  simp only [State.fbView, fbGet, Bool.and_eq_true]
  constructor
  · rintro ⟨⟨⟨c00, c01⟩, c10⟩, c11⟩ dr dc hr hc
    interval_cases dr <;> interval_cases dc <;> assumption
  · intro lit
    exact ⟨⟨⟨lit 0 0 (by omega) (by omega), lit 0 1 (by omega) (by omega)⟩, lit 1 0 (by omega) (by omega)⟩,
      lit 1 1 (by omega) (by omega)⟩

end Sys2Proof.Machine
end

section
/-! The screen instructions but DRW, and the control flow of RET, CALL and JMP_OFF (40_group0.md, 41_flow.md). -/

namespace Sys2Proof.Machine

/-! ## CLS, HIGH, LOW (R94, R96, R97) -/

theorem decodeGroup0_of_E0 {op : Word} (low : fieldKK op = 0xE0#8) : decodeGroup0 op = .cls := by
  unfold decodeGroup0
  rw [low]
  rfl

/-- Settles O1: the word by its leading nibble and low byte; the framebuffer is replaced by the blank one. -/
theorem clsClearsEveryCell : Obligations.ClsClearsEveryCell := by
  refine ⟨fun op row => ?_, fun s => ⟨_, rfl, rfl, fun r c _ _ => Grid.pixel_blank r c⟩⟩
  rw [decodeWord_of_group0 (fieldC_of_mask row rfl), decodeGroup0_of_E0 (fieldKK_of_mask row rfl)]

/-- Settles O2: both write RES and replace the framebuffer by the blank one, whatever RES was. -/
theorem highAndLowSetResolutionAndClear : Obligations.HighAndLowSetResolutionAndClear :=
  fun _ => ⟨⟨_, rfl, rfl, Grid.pixel_blank⟩, ⟨_, rfl, rfl, Grid.pixel_blank⟩⟩

/-! ## The scrolls (R98 to R101) -/

theorem scrollRight_zero (g : Grid) : scrollRight g 0 = g := by
  ext r hr
  simp [scrollRight]

theorem scrollLeft_zero (g : Grid) : scrollLeft g 0 = g := by
  ext r hr
  simp [scrollLeft]

theorem scrollDown_zero (g : Grid) : scrollDown g 0 = g := by
  ext r hr
  simp [scrollDown]

/-- A scroll moves by the count of R98, which is 0 where the policy drops it. -/
theorem State.scrolled_eq (s : State) {move : Grid → Nat → Grid} (zero : ∀ g, move g 0 = g) (amount : Nat) :
    s.scrolled move amount = move s.phys (scrollCount s amount) := by
  unfold scrolled scrollAmount scrollCount
  cases s.res with
  | high => rfl
  | low =>
    cases s.par.lowresScroll with
    | physical | logical => rfl
    | noop => exact (zero s.phys).symm

/-- Settles O4: each scroll is one move of the grid, whose cells the framebuffer's laws give. -/
theorem scrollsMoveCells : Obligations.ScrollsMoveCells := by
  intro s
  refine ⟨⟨_, rfl, rfl, fun r c _ hc => ?_⟩, ⟨_, rfl, rfl, fun r c _ _ => ?_⟩,
    fun n => ⟨_, rfl, rfl, fun r c hr _ => ?_⟩⟩
  · rw [State.setPhys_phys, s.scrolled_eq scrollRight_zero, Grid.pixel_scrollRight _ _ _ hc]
    exact Bool.if_false_right _ _
  · rw [State.setPhys_phys, s.scrolled_eq scrollLeft_zero, Grid.pixel_scrollLeft]
    exact Bool.if_false_right _ _
  · rw [State.setPhys_phys, s.scrolled_eq scrollDown_zero, Grid.pixel_scrollDown _ _ hr]
    exact Bool.if_false_right _ _

/-! ## RET, CALL and JMP_OFF (R95, R105, R111) -/

theorem exec_ret_of_cons {s : State} {a : Word} {rest : List Word} (top : s.stack = a :: rest) :
    exec .ret s = .next ((s.setStack rest).setPc a) := by
  rw [exec, execRet, top]

theorem exec_ret_of_nil {s : State} (empty : s.stack = []) : exec .ret s = .next s := by
  rw [exec, execRet, empty]

/-- Settles O3, by whether the stack is empty. -/
theorem retPopsOrDoesNothing : Obligations.RetPopsOrDoesNothing :=
  fun _ => ⟨fun _ _ top => exec_ret_of_cons top, fun empty => exec_ret_of_nil empty⟩

theorem State.pushing_of_room {s : State} (room : ∀ bound, s.par.stackLimit = some bound → s.stack.length < bound)
    (done : State) : s.pushing done = done := by
  rcases s.pushing_cases done with ⟨pushed, -⟩ | ⟨bound, limit, full, -⟩
  · exact pushed
  · exact absurd (room bound limit) (not_lt.mpr full)

theorem State.pushing_of_full {s : State} {bound : Nat} (limit : s.par.stackLimit = some bound)
    (full : bound ≤ s.stack.length) (done : State) : s.pushing done = faulted s .stackLimit bound := by
  rcases s.pushing_cases done with ⟨-, room⟩ | ⟨b, limit', -, faults⟩
  · exact absurd full (not_le.mpr (room bound limit))
  · obtain rfl : bound = b := Option.some.inj (limit.symm.trans limit')
    exact faults

/-- Settles O7, by whether the bounded push has room. -/
theorem callPushesAndJumps : Obligations.CallPushesAndJumps := by
  refine fun s nnn => ⟨fun room => ?_, fun bound limit full => ?_⟩
  · rw [exec, execCall, State.pushing_of_room room, addrOf_eq_ofNat]
    rfl
  · rw [exec, execCall, State.pushing_of_full limit full]

theorem addrTopNibble_eq_ofNat (nnn : Addr12) : addrTopNibble nnn = BitVec.ofNat 4 (nnn.toNat / 256) := by
  apply BitVec.eq_of_toNat_eq
  rw [addrTopNibble, BitVec.extractLsb'_toNat, Nat.shiftRight_eq_div_pow, BitVec.toNat_ofNat]

/-- The target of JMP_OFF is the exact sum: neither operand comes near 2^15. -/
theorem toNat_jumpTarget (nnn : Addr12) (b : Byte) : (addrOf nnn + b.setWidth 16).toNat = nnn.toNat + b.toNat := by
  rw [BitVec.toNat_add, addrOf, BitVec.toNat_setWidth, BitVec.toNat_setWidth]
  have := nnn.isLt
  have := b.isLt
  omega

/-- Settles O9: the offset is the register JUMPING chooses. -/
theorem jmpOffAddsChosenRegister : Obligations.JmpOffAddsChosenRegister := by
  refine fun s nnn => ⟨_, rfl, rfl, fun jumping => ?_, fun fixed => ?_⟩
  · rw [State.setPc_pc, toNat_jumpTarget, State.jumpOffset, jumping, addrTopNibble_eq_ofNat]
    rfl
  · rw [State.setPc_pc, toNat_jumpTarget, State.jumpOffset, fixed]
    rfl

end Sys2Proof.Machine
end

section
/-! The two-operand arithmetic: the result first, VF last (42_alu.md R115 to R123; log 25). -/

namespace Sys2Proof.Machine

/-! ## Flags as the statements write them (R124) -/

theorem flagByte_decide (p : Prop) [Decidable p] : flagByte (decide p) = if p then 1#8 else 0#8 := by
  unfold flagByte
  exact if_congr decide_eq_true_iff rfl rfl

theorem carryFlag_eq (a b : Byte) : carryFlag a b = if a.toNat + b.toNat > 255 then 1#8 else 0#8 := flagByte_decide _

theorem noBorrowFlag_eq (a b : Byte) : noBorrowFlag a b = if b.toNat ≤ a.toNat then 1#8 else 0#8 := flagByte_decide _

theorem shiftedOutRight_eq_ofNat (a : Byte) : shiftedOutRight a = BitVec.ofNat 8 (a.toNat % 2) := by
  apply BitVec.eq_of_toNat_eq
  rw [shiftedOutRight, BitVec.toNat_and, BitVec.toNat_ofNat, BitVec.toNat_ofNat, Nat.and_one_is_mod]
  omega

theorem shiftedOutLeft_eq_ofNat (a : Byte) : shiftedOutLeft a = BitVec.ofNat 8 (a.toNat / 128) := by
  apply BitVec.eq_of_toNat_eq
  rw [shiftedOutLeft, BitVec.toNat_ushiftRight, Nat.shiftRight_eq_div_pow, BitVec.toNat_ofNat]
  have := a.isLt
  omega

/-! ## Results as the statements write them -/

theorem byte_sub_eq_ofInt (a b : Byte) : a - b = BitVec.ofInt 8 ((a.toNat : Int) - b.toNat) := by
  apply BitVec.eq_of_toNat_eq
  rw [BitVec.toNat_sub, BitVec.toNat_ofInt]
  have := a.isLt
  have := b.isLt
  omega

theorem byte_halved (a : Byte) : a >>> 1 = BitVec.ofNat 8 (a.toNat / 2) := by
  apply BitVec.eq_of_toNat_eq
  rw [BitVec.toNat_ushiftRight, Nat.shiftRight_eq_div_pow, BitVec.toNat_ofNat]
  have := a.isLt
  omega

theorem byte_doubled (a : Byte) : a <<< 1 = BitVec.ofNat 8 (a.toNat * 2 % 256) := by
  apply BitVec.eq_of_toNat_eq
  rw [BitVec.toNat_shiftLeft, Nat.shiftLeft_eq, BitVec.toNat_ofNat, Nat.mod_mod, Nat.pow_one]

/-! ## A result, then a flag -/

/-- An instruction that writes V[x] and then VF: in VF the flag, also when x = F. -/
theorem writesRegsOnly_of_setV_setVF {i : Instr} {s : State} {x : Nibble} {b flag : Byte}
    (answer : exec i s = .next ((s.setV x b).setVF flag)) :
    WritesRegsOnly i s fun r => if r = 0xF#4 then flag else if r = x then b else s.reg r := by
  refine ⟨_, answer, rfl, fun r => ?_⟩
  rw [State.setVF_eq_setV, State.reg_setV, State.reg_setV]
  exact if_congr eq_comm rfl (if_congr eq_comm rfl rfl)

/-- Writing VF leaves every other register. -/
theorem State.reg_setVF_other (s : State) {r : Nibble} (b : Byte) (other : r ≠ 0xF#4) : (s.setVF b).reg r = s.reg r :=
  s.reg_setV_other b other.symm

/-- OR, AND and XOR: V[x], and after it VF when VF_RESET is set. -/
theorem State.reg_setV_logicFlag (s : State) (x : Nibble) (b : Byte) (r : Nibble) :
    (s.setV x b).logicFlag.reg r =
      if r = 0xF#4 ∧ s.par.q.vfReset = true then 0#8 else if r = x then b else s.reg r := by
  have written : (s.setV x b).reg r = if r = x then b else s.reg r := by
    rw [reg_setV]
    exact if_congr eq_comm rfl rfl
  unfold logicFlag
  rw [setV_par, ← written]
  by_cases reset : s.par.q.vfReset = true
  · rw [if_pos reset, setVF_eq_setV, reg_setV]
    exact if_congr ⟨fun h => ⟨h.symm, reset⟩, fun h => h.1.symm⟩ rfl rfl
  · rw [if_neg reset, if_neg fun h => reset h.2]

/-- A logic instruction, from its answer and what its result is bit by bit. -/
theorem logic_writes {i : Instr} {s : State} {x : Nibble} {b : Byte} {bit : Nat → Bool}
    (answer : exec i s = .next (s.setV x b).logicFlag) (bits : ∀ k, k < 8 → b.getLsbD k = bit k) :
    ∃ t, exec i s = .next t ∧ t = { s with v := t.v } ∧ ∀ r,
      if r = 0xF#4 ∧ s.par.q.vfReset = true then t.reg r = 0#8
      else if r = x then ∀ k, k < 8 → (t.reg r).getLsbD k = bit k
      else t.reg r = s.reg r := by
  refine ⟨_, answer, by rw [State.logicFlag_eq]; rfl, fun r => ?_⟩
  rw [State.reg_setV_logicFlag]
  split_ifs
  · rfl
  · exact bits
  · rfl

/-! ## The words of OR, AND and XOR (30_encoding.md R80) -/

theorem decodeGroup8_of_last1 {op : Word} (last : fieldN op = 0x1#4) :
    decodeGroup8 op = .ok (.orVV (fieldX op) (fieldY op)) := by
  unfold decodeGroup8
  rw [last]
  rfl

theorem decodeGroup8_of_last2 {op : Word} (last : fieldN op = 0x2#4) :
    decodeGroup8 op = .ok (.andVV (fieldX op) (fieldY op)) := by
  unfold decodeGroup8
  rw [last]
  rfl

theorem decodeGroup8_of_last3 {op : Word} (last : fieldN op = 0x3#4) :
    decodeGroup8 op = .ok (.xorVV (fieldX op) (fieldY op)) := by
  unfold decodeGroup8
  rw [last]
  rfl

/-! ## The statements -/

/-- Settles O12: the words by the nibbles their rows fix; each result bit by bit. -/
theorem logicWritesResultThenFlag : Obligations.LogicWritesResultThenFlag := by
  refine ⟨fun op row => ?_, fun op row => ?_, fun op row => ?_, fun s x y => ⟨?_, ?_, ?_⟩⟩
  · exact (decodeWord_of_group8 (fieldC_of_mask row rfl)).trans (decodeGroup8_of_last1 (fieldN_of_mask row rfl))
  · exact (decodeWord_of_group8 (fieldC_of_mask row rfl)).trans (decodeGroup8_of_last2 (fieldN_of_mask row rfl))
  · exact (decodeWord_of_group8 (fieldC_of_mask row rfl)).trans (decodeGroup8_of_last3 (fieldN_of_mask row rfl))
  · exact logic_writes (i := .orVV x y) rfl fun k _ => BitVec.getLsbD_or
  · exact logic_writes (i := .andVV x y) rfl fun k _ => BitVec.getLsbD_and
  · exact logic_writes (i := .xorVV x y) rfl fun k _ => BitVec.getLsbD_xor

/-- Settles O13: the sum into V[x], then the carry into VF. -/
theorem addGivesSumAndCarry : Obligations.AddGivesSumAndCarry := by
  intro s x y
  rw [← byte_add_eq_ofNat, ← carryFlag_eq]
  exact writesRegsOnly_of_setV_setVF rfl

/-- A subtraction, from its answer. -/
theorem difference_writes {i : Instr} {s : State} {x : Nibble} {a b : Byte}
    (answer : exec i s = .next ((s.setV x (a - b)).setVF (noBorrowFlag a b))) :
    WritesRegsOnly i s fun r =>
      if r = 0xF#4 then (if b.toNat ≤ a.toNat then 1#8 else 0#8)
      else if r = x then BitVec.ofInt 8 ((a.toNat : Int) - b.toNat) else s.reg r := by
  rw [← byte_sub_eq_ofInt, ← noBorrowFlag_eq]
  exact writesRegsOnly_of_setV_setVF answer

/-- Settles O14: SUBN is SUB with its operands exchanged. -/
theorem subtractsGiveDifferenceAndNoBorrow : Obligations.SubtractsGiveDifferenceAndNoBorrow :=
  fun _ _ _ => ⟨difference_writes rfl, difference_writes rfl⟩

/-- Settles O15: the source is chosen by SHIFTING before anything is written. -/
theorem shiftsMoveOnePlace : Obligations.ShiftsMoveOnePlace := by
  intro s x y
  show _ ∧ _
  rw [← shiftedOutRight_eq_ofNat, ← byte_halved, ← shiftedOutLeft_eq_ofNat, ← byte_doubled]
  exact ⟨writesRegsOnly_of_setV_setVF rfl, writesRegsOnly_of_setV_setVF rfl⟩

/-- Settles O16: the byte is the one `randomByte` reads before the draw is used up. -/
theorem rndMasksOneDraw : Obligations.RndMasksOneDraw := by
  intro s x kk
  refine ⟨_, s.randomByte, rfl, rfl, fun c rest waits => ?_, fun empty => ?_, fun r => ?_⟩
  · rw [State.randomByte, waits]
  · rw [State.randomByte, empty]
  · rw [State.reg_setV, State.reg_drawRandom]
    exact if_congr eq_comm rfl rfl

end Sys2Proof.Machine
end

section
/-! The index register and memory instructions (44_index_memory.md R136 to R141). -/

namespace Sys2Proof.Machine

/-! ## I and the flag of ADD_IV (R136, R137) -/

theorem indexOverflowFlag_eq (limit : Nat) (i : Word) (b : Byte) :
    indexOverflowFlag limit i b = if i.toNat + b.toNat > limit then 1#8 else 0#8 := flagByte_decide _

/-- Settles O21: I wraps, the flag is of the exact sum. -/
theorem addIndexSetsOverflowFlag : Obligations.AddIndexSetsOverflowFlag := by
  refine fun s x => ⟨_, rfl, rfl, ?_, fun r => ?_⟩
  · show (s.i + (s.reg x).setWidth 16).toNat = _
    rw [BitVec.toNat_add, BitVec.toNat_setWidth]
    have := (s.reg x).isLt
    omega
  · rw [← indexOverflowFlag_eq, State.setVF_eq_setV, State.reg_setV, State.reg_setI]
    exact if_congr eq_comm rfl rfl

/-- A glyph's address: 0x050 and five times any byte is no more than 16 bits. -/
theorem toNat_glyphAddr (d : Byte) : (glyphAddr d).toNat = 0x050 + 5 * d.toNat := by
  rw [glyphAddr, BitVec.toNat_ofNat, fontBase]
  have := d.isLt
  omega

/-- Settles O22: I is the glyph's address. -/
theorem fontLookupSetsI : Obligations.FontLookupSetsI :=
  fun s x => ⟨_, rfl, rfl, toNat_glyphAddr (s.reg x)⟩

/-! ## A store from I on -/

/-- A range that leaves memory is the precise fault of the statements. -/
theorem State.accessing_faulted (s : State) {base len : Nat} (nonempty : 0 < len) (out : 0x1000 < base + len) (done : State) :
    s.accessing base len done = faulted s .dataBounds (max base 0x1000) :=
  s.accessing_of_gt nonempty out done

/-- What every address reads after a store from I on of bytes that are `val 0`, `val 1`, and so on. -/
theorem read_store {s : State} {bs : List Byte} {len : Nat} {val : Nat → Byte} (length : bs.length = len)
    (range : s.i.toNat + len ≤ 0x1000) (bytes : ∀ k, k < len → bs.getD k 0#8 = val k) (a : Nat) :
    (s.mem.writeBytes s.i.toNat bs).read a = byteAfterStore s len val a := by
  subst length
  rw [Memory.read_writeBytes _ _ _ range, byteAfterStore]
  split_ifs with inside
  · exact bytes _ (by omega)
  · rfl

/-- Inside the range, the byte stored. -/
theorem byteAfterStore_inside (s : State) {len k : Nat} (val : Nat → Byte) (inside : k < len) :
    byteAfterStore s len val (s.i.toNat + k) = val k := by
  rw [byteAfterStore, if_pos (by omega), Nat.add_sub_cancel_left]

/-- Outside, the byte that was there. -/
theorem byteAfterStore_outside (s : State) {len a : Nat} (val : Nat → Byte)
    (outside : a < s.i.toNat ∨ s.i.toNat + len ≤ a) : byteAfterStore s len val a = s.mem.read a := by
  rw [byteAfterStore, if_neg (by omega)]

/-! ## LD_BV (R138) -/

theorem exec_ldBV_of_range {s : State} (x : Nibble) (range : s.i.toNat + 3 ≤ 0x1000) :
    exec (.ldBV x) s = .next (s.setMem (s.mem.writeBytes s.i.toNat (decimalDigits (s.reg x)))) :=
  congrArg _ (s.accessing_of_le range _)

/-- The digits LD_BV stores are those of R138. -/
theorem decimalDigits_getD (b : Byte) {k : Nat} (inside : k < 3) : (decimalDigits b).getD k 0#8 = bcdDigit b k := by
  have := b.isLt
  apply BitVec.eq_of_toNat_eq
  interval_cases k <;> simp [decimalDigits, bcdDigit, BitVec.toNat_udiv, BitVec.toNat_umod] <;> omega

theorem read_ldBV {s : State} (x : Nibble) (range : s.i.toNat + 3 ≤ 0x1000) (a : Nat) :
    (s.mem.writeBytes s.i.toNat (decimalDigits (s.reg x))).read a = byteAfterStore s 3 (bcdDigit (s.reg x)) a :=
  read_store (bs := decimalDigits (s.reg x)) rfl range (fun _ inside => decimalDigits_getD (s.reg x) inside) a

/-- A digit is what R138 says, as a number. -/
theorem toNat_bcdDigit (b : Byte) :
    (bcdDigit b 0).toNat = b.toNat / 100 ∧ (bcdDigit b 1).toNat = b.toNat / 10 % 10 ∧
      (bcdDigit b 2).toNat = b.toNat % 10 := by
  have := b.isLt
  simp only [bcdDigit, BitVec.toNat_ofNat]
  refine ⟨?_, ?_, ?_⟩ <;> simp <;> omega

/-- Settles O23: the three bytes inside the range, every other address, and the fault where the range leaves memory. -/
theorem bcdStoresDigits : Obligations.BcdStoresDigits := by
  intro s x
  refine ⟨fun range => ⟨_, exec_ldBV_of_range x range, rfl, ?_⟩, fun out => ?_⟩
  · obtain ⟨hundreds, tens, units⟩ := toNat_bcdDigit (s.reg x)
    have stored (k : Nat) (inside : k < 3) : (s.mem.writeBytes s.i.toNat (decimalDigits (s.reg x))).read (s.i.toNat + k) =
        bcdDigit (s.reg x) k := by
      rw [read_ldBV x range, byteAfterStore_inside s _ inside]
    refine ⟨?_, ?_, ?_, fun a outside => ?_⟩
    · rw [← hundreds, ← stored 0 (by omega)]; rfl
    · rw [← tens, ← stored 1 (by omega)]; rfl
    · rw [← units, ← stored 2 (by omega)]; rfl
    · exact (read_ldBV x range a).trans (byteAfterStore_outside s _ outside)
  · exact congrArg _ (s.accessing_faulted (by omega) out _)

/-! ## LD_MV and LD_VM (R139, R140) -/

theorem exec_ldMV_of_range {s : State} (x : Nibble) (range : s.i.toNat + x.toNat + 1 ≤ 0x1000) :
    exec (.ldMV x) s =
      .next ((s.setMem (s.mem.writeBytes s.i.toNat (s.regBlock x))).setI (s.indexAfterBlock x)) :=
  congrArg _ (s.accessing_of_le (len := x.toNat + 1) range _)

theorem exec_ldVM_of_range {s : State} (x : Nibble) (range : s.i.toNat + x.toNat + 1 ≤ 0x1000) :
    exec (.ldVM x) s = .next { s with v := s.loadedRegs x, i := s.indexAfterBlock x } :=
  congrArg _ (s.accessing_of_le (len := x.toNat + 1) range _)

/-- I after a block: x + 1 higher under MEMORY; a range that exists does not wrap. -/
theorem toNat_indexAfterBlock {s : State} {x : Nibble} (range : s.i.toNat + x.toNat + 1 ≤ 0x1000) :
    (s.indexAfterBlock x).toNat = if s.par.q.memory then s.i.toNat + x.toNat + 1 else s.i.toNat := by
  unfold State.indexAfterBlock
  split
  · rw [BitVec.toNat_add, BitVec.toNat_ofNat]
    omega
  · rfl

/-- A register by its number. -/
theorem State.reg_ofNat (s : State) {k : Nat} (h : k < 16) : s.reg (BitVec.ofNat 4 k) = s.v[k] := by
  have number : (BitVec.ofNat 4 k).toNat = k := by
    rw [BitVec.toNat_ofNat]
    omega
  simp only [reg_eq, number]

theorem State.regBlock_length (s : State) (x : Nibble) : (s.regBlock x).length = x.toNat + 1 := by
  have := x.isLt
  rw [regBlock, List.length_take, Vector.length_toList]
  omega

theorem State.regBlock_getD (s : State) {x : Nibble} {k : Nat} (inside : k < x.toNat + 1) :
    (s.regBlock x).getD k 0#8 = s.reg (BitVec.ofNat 4 k) := by
  have number : k < 16 := by
    have := x.isLt
    omega
  rw [s.reg_ofNat number]
  simp [regBlock, inside, number]

theorem read_ldMV {s : State} (x : Nibble) (range : s.i.toNat + x.toNat + 1 ≤ 0x1000) (a : Nat) :
    (s.mem.writeBytes s.i.toNat (s.regBlock x)).read a =
      byteAfterStore s (x.toNat + 1) (fun k => s.reg (BitVec.ofNat 4 k)) a :=
  read_store (s.regBlock_length x) range (fun _ inside => s.regBlock_getD inside) a

/-- Settles O24: the bytes inside the range, every other address, and the fault where the range leaves memory. -/
theorem blockStore : Obligations.BlockStore := by
  intro s x
  refine ⟨fun range => ⟨_, exec_ldMV_of_range x range, rfl, toNat_indexAfterBlock range, fun k inside => ?_,
    fun a outside => ?_⟩,
    fun out => ?_⟩
  · show (s.mem.writeBytes s.i.toNat (s.regBlock x)).read _ = _
    rw [read_ldMV x range, byteAfterStore_inside s _ (by omega), BitVec.ofNat_toNat, BitVec.setWidth_eq]
  · exact (read_ldMV x range a).trans (byteAfterStore_outside s _ (by omega))
  · exact congrArg _ (s.accessing_faulted (Nat.succ_pos x.toNat) out _)

/-- A register after a block load. -/
theorem State.reg_of_loadedRegs {s t : State} {x : Nibble} (loaded : t.v = s.loadedRegs x) (k : Nibble) :
    t.reg k = if k.toNat ≤ x.toNat then s.mem.read (s.i.toNat + k.toNat) else s.reg k := by
  rw [reg_eq]
  simp [loaded, loadedRegs, reg_eq]

/-- Settles O25: the register file inside the range, I, and the fault where the range leaves memory. -/
theorem blockLoad : Obligations.BlockLoad := by
  intro s x
  refine ⟨fun range => ⟨_, exec_ldVM_of_range x range, rfl, toNat_indexAfterBlock range, State.reg_of_loadedRegs rfl⟩,
    fun out => ?_⟩
  exact congrArg _ (s.accessing_faulted (Nat.succ_pos x.toNat) out _)

/-! ## The next fetch (20_memory.md R69) -/

/-- A fetch reads the two bytes memory holds at PC. -/
theorem fetch_eq_of_read {s t : State} {seen : Nat → Byte} (pc : t.pc = s.pc) (low : s.pc.toNat < 0x0FFF)
    (reads : ∀ a, t.mem.read a = seen a) :
    fetch t = .ok (wordOfBytes (seen s.pc.toNat) (seen (s.pc.toNat + 1))) := by
  rw [fetch_of_lt (pc ▸ low), reads, reads, pc]

/-- Settles O26: no store moves PC, and memory reads as after the store wherever PC is. -/
theorem storeIsSeenByNextFetch : Obligations.StoreIsSeenByNextFetch := by
  intro s x low
  refine ⟨fun range => ⟨_, exec_ldMV_of_range x range, rfl, ?_⟩, fun range => ⟨_, exec_ldBV_of_range x range, rfl, ?_⟩⟩
  · exact fetch_eq_of_read rfl low (read_ldMV x range)
  · exact fetch_eq_of_read rfl low (read_ldBV x range)

end Sys2Proof.Machine
end

section
/-! The key skips and the timer registers (45_keys_timers.md R142 to R147). -/

namespace Sys2Proof.Machine

/-- A key code and a byte are equal in full 8 bits exactly when they are the same number (R148). -/
theorem keyCode_eq_iff (k : Nibble) (b : Byte) : k.setWidth 8 = b ↔ k.toNat = b.toNat := by
  rw [← BitVec.toNat_inj, BitVec.toNat_setWidth]
  have := k.isLt
  omega

theorem State.keyMatches_iff (s : State) (x : Nibble) :
    s.keyMatches x = true ↔ s.pressed = true ∧ ∃ k, s.key = some k ∧ k.toNat = (s.reg x).toNat := by
  simp [keyMatches, Option.any_eq_true, keyCode_eq_iff]

theorem exec_skp (x : Nibble) (s : State) : exec (.skp x) s = .next (s.skipIf (s.keyMatches x)) := rfl

theorem exec_sknp (x : Nibble) (s : State) : exec (.sknp x) s = .next (s.skipIf (!s.keyMatches x)) := rfl

/-- Settles O27: both skips test whether the stored key is down and matches. -/
theorem keySkips : Obligations.KeySkips := by
  intro s x
  refine ⟨fun down => ?_, fun up => ?_⟩
  · rw [exec_skp, exec_sknp, (s.keyMatches_iff x).mpr down]
    exact ⟨rfl, rfl⟩
  · rw [exec_skp, exec_sknp, Bool.eq_false_of_not_eq_true (mt (s.keyMatches_iff x).mp up)]
    exact ⟨rfl, rfl⟩

/-- Settles O28: one register write, and two timer writes. -/
theorem timerRegisterMoves : Obligations.TimerRegisterMoves :=
  fun _ _ => ⟨writesRegsOnly_of_setV rfl, rfl, rfl⟩

end Sys2Proof.Machine
end

section
/-! The frame of each instruction, and which registers it leaves (10_state.md R21, 20_memory.md R52). -/

namespace Sys2Proof.Machine

open Host.Outcome (next.inj)

/-- `s` with the fields that the instruction may write taken from `t`; PC and FAULT are among them for every instruction, since a
fault writes both. -/
def frameOf (i : Instr) (s t : State) : State :=
  match i with
  | .cls | .scr | .scl | .scd _ => { s with pc := t.pc, fault := t.fault, phys := t.phys }
  | .high | .low => { s with pc := t.pc, fault := t.fault, phys := t.phys, res := t.res }
  | .ret | .call _ => { s with pc := t.pc, fault := t.fault, stack := t.stack }
  | .sys _ | .jmp _ | .jmpOff _ | .sei _ _ | .snei _ _ | .ser _ _ | .sner _ _ | .skp _ | .sknp _ =>
    { s with pc := t.pc, fault := t.fault }
  | .ldVK _ _ | .addVK _ _ | .ldVV _ _ | .orVV _ _ | .andVV _ _ | .xorVV _ _ | .addVV _ _ | .sub _ _ | .shr _ _
  | .subn _ _ | .shl _ _ | .ldVDT _ => { s with pc := t.pc, fault := t.fault, v := t.v }
  | .rnd _ _ => { s with pc := t.pc, fault := t.fault, v := t.v, rand := t.rand, randUsed := t.randUsed }
  | .drw _ _ _ => { s with pc := t.pc, fault := t.fault, phys := t.phys, v := t.v, int := t.int }
  | .ldVKey _ => { s with pc := t.pc, fault := t.fault, v := t.v, kw := t.kw, kdl := t.kdl }
  | .ldDTV _ => { s with pc := t.pc, fault := t.fault, dt := t.dt }
  | .ldSTV _ => { s with pc := t.pc, fault := t.fault, st := t.st }
  | .ldIA _ | .ldFV _ => { s with pc := t.pc, fault := t.fault, i := t.i }
  | .addIV _ => { s with pc := t.pc, fault := t.fault, i := t.i, v := t.v }
  | .ldBV _ => { s with pc := t.pc, fault := t.fault, mem := t.mem }
  | .ldMV _ => { s with pc := t.pc, fault := t.fault, mem := t.mem, i := t.i }
  | .ldVM _ => { s with pc := t.pc, fault := t.fault, v := t.v, i := t.i }

/-- A checked access is in the frame of what it guards: its fault writes PC and FAULT alone. -/
theorem State.accessing_frame {i : Instr} {s done : State} (base len : Nat) (completed : done = frameOf i s done)
    (faulted : ∀ a, s.latchFault .dataBounds (s.pc - 2#16) a = frameOf i s (s.latchFault .dataBounds (s.pc - 2#16) a)) :
    s.accessing base len done = frameOf i s (s.accessing base len done) := by
  rcases s.accessing_cases base len done with e | ⟨a, -, e⟩ <;> rw [e]
  · exact completed
  · exact faulted a

/-- What an instruction answers is in its frame. -/
theorem exec_frame {i : Instr} {s t : State} (h : exec i s = .next t) : t = frameOf i s t := by
  cases i with
  | ret =>
    cases top : s.stack with
    | nil => rw [← next.inj ((exec_ret_of_nil top).symm.trans h)]; rfl
    | cons a rest => rw [← next.inj ((exec_ret_of_cons top).symm.trans h)]; rfl
  | call nnn =>
    rw [← next.inj h]
    rcases s.pushing_cases ((s.setStack (s.pc :: s.stack)).setPc (addrOf nnn)) with ⟨e, -⟩ | ⟨bound, -, -, e⟩ <;>
      rw [e] <;> rfl
  | ldVKey x =>
    rcases exec_ldVKey_cases x s with arms | waits | ⟨b, completes⟩
    · rw [← next.inj (arms.symm.trans h)]; rfl
    · rw [← next.inj (waits.symm.trans h)]; rfl
    · rw [← next.inj (completes.symm.trans h)]; rfl
  | sei _ _ | snei _ _ | ser _ _ | sner _ _ | skp _ | sknp _ => rw [← next.inj h, State.skipIf_eq]; rfl
  | orVV _ _ | andVV _ _ | xorVV _ _ => rw [← next.inj h, State.logicFlag_eq]; rfl
  | drw _ _ _ | ldBV _ | ldMV _ | ldVM _ =>
    rw [← next.inj h]
    exact State.accessing_frame _ _ rfl fun _ => rfl
  | _ => rw [← next.inj h]; rfl

/-! ## Registers (R21) -/

/-- A register that the frame takes from `s`. -/
theorem reg_of_frame {i : Instr} {s t : State} (h : exec i s = .next t) (kept : (frameOf i s t).v = s.v) (r : Nibble) :
    t.reg r = s.reg r :=
  State.reg_congr ((congrArg State.v (exec_frame h)).trans kept) r

/-- A checked access writes no register that what it guards does not write. -/
theorem State.reg_accessing {s done : State} (base len : Nat) {r : Nibble} (kept : done.reg r = s.reg r) :
    (s.accessing base len done).reg r = s.reg r := by
  rcases s.accessing_cases base len done with e | ⟨a, -, e⟩ <;> rw [e]
  · exact kept
  · rfl

theorem exec_ldVKey_reg {x r : Nibble} {s t : State} (h : exec (.ldVKey x) s = .next t) (other : r ≠ x) :
    t.reg r = s.reg r := by
  rcases exec_ldVKey_cases x s with arms | waits | ⟨b, completes⟩
  · rw [← next.inj (arms.symm.trans h)]; rfl
  · rw [← next.inj (waits.symm.trans h)]; rfl
  · rw [← next.inj (completes.symm.trans h), State.reg_setKeyWait, State.reg_setV_other _ _ other.symm]

/-- Settles O54, by the kinds of row in R21's table: no register, V[x], V[x] and VF, VF, V[0] to V[x]. -/
theorem registersOutsideTheTableAreKept : Obligations.RegistersOutsideTheTableAreKept := by
  intro i s t r h outside
  cases i with
  | ldVK x _ | addVK x _ | ldVV x _ | ldVDT x =>
    have other : r ≠ x := of_decide_eq_false outside
    rw [← next.inj h, State.reg_setV_other _ _ other.symm]
  | rnd x _ =>
    have other : r ≠ x := of_decide_eq_false outside
    rw [← next.inj h, State.reg_setV_other _ _ other.symm, State.reg_drawRandom]
  | ldVKey x => exact exec_ldVKey_reg h (of_decide_eq_false outside)
  | orVV x y | andVV x y | xorVV x y =>
    obtain ⟨other, flag⟩ : r ≠ x ∧ ¬(r = 0xF#4 ∧ s.par.q.vfReset = true) := by
      simpa [destReg, and_comm] using outside
    rw [← next.inj h, State.reg_setV_logicFlag, if_neg flag, if_neg other]
  | addVV x y | sub x y | subn x y | shr x y | shl x y =>
    obtain ⟨other, notFlag⟩ : r ≠ x ∧ r ≠ 0xF#4 := by simpa [destReg] using outside
    rw [← next.inj h, State.reg_setVF_other _ _ notFlag, State.reg_setV_other _ _ other.symm]
  | addIV x =>
    have notFlag : r ≠ 0xF#4 := of_decide_eq_false outside
    rw [← next.inj h, State.reg_setVF_other _ _ notFlag, State.reg_setI]
  | drw x y n =>
    have notFlag : r ≠ 0xF#4 := of_decide_eq_false outside
    rw [← next.inj h]
    apply State.reg_accessing
    rw [State.reg_setInt, State.reg_setVF_other _ _ notFlag, State.reg_setPhys]
  | ldVM x =>
    have above : ¬r.toNat ≤ x.toNat := of_decide_eq_false outside
    rw [← next.inj h]
    apply State.reg_accessing
    rw [State.reg_of_loadedRegs (s := s) rfl, if_neg above]
  | _ => exact reg_of_frame h rfl r

/-! ## The other kinds of state -/

/-- No frame takes from `t` what only the host writes, or what only the step does. -/
theorem frame_keeps_host (i : Instr) (s t : State) :
    (frameOf i s t).key = s.key ∧ (frameOf i s t).pressed = s.pressed ∧ (frameOf i s t).run = s.run ∧
    (frameOf i s t).speed = s.speed ∧ (frameOf i s t).soundEn = s.soundEn ∧ (frameOf i s t).soundOn = s.soundOn ∧
    (frameOf i s t).loadOk = s.loadOk ∧ (frameOf i s t).par = s.par ∧ (frameOf i s t).inputs = s.inputs ∧
    (frameOf i s t).draws = s.draws := by
  cases i <;> exact ⟨rfl, rfl, rfl, rfl, rfl, rfl, rfl, rfl, rfl, rfl⟩

/-- Settles O55: a field that changed is in the instruction's frame. -/
theorem eachKindOfStateHasItsWriters : Obligations.EachKindOfStateHasItsWriters := by
  intro i s t h
  have frame := exec_frame h
  refine ⟨fun changed => ?_, fun changed => ?_, fun changed => ?_, fun changed => ?_, fun changed => ?_, fun changed => ?_,
    fun changed => ?_, fun changed => ?_, fun changed => ?_, ?_⟩
  · cases i with
    | ret => exact .inl rfl
    | call nnn => exact .inr ⟨nnn, rfl⟩
    | _ => exact absurd (congrArg State.stack frame) changed
  · cases i with
    | ldDTV x => exact ⟨x, rfl⟩
    | _ => exact absurd (congrArg State.dt frame) changed
  · cases i with
    | ldSTV x => exact ⟨x, rfl⟩
    | _ => exact absurd (congrArg State.st frame) changed
  · cases i with
    | high => exact .inl rfl
    | low => exact .inr rfl
    | _ => exact absurd (congrArg State.res frame) changed
  · cases i with
    | drw x y n => exact ⟨x, y, n, rfl⟩
    | _ => exact absurd (congrArg State.int frame) changed
  · cases i with
    | ldVKey x => exact ⟨x, rfl⟩
    | _ => exact changed.elim (absurd (congrArg State.kw frame) ·) (absurd (congrArg State.kdl frame) ·)
  · cases i with
    | ldBV x => exact ⟨x, .inl rfl⟩
    | ldMV x => exact ⟨x, .inr rfl⟩
    | _ => exact absurd (congrArg State.mem frame) changed
  · cases i with
    | ldIA nnn => exact .inl ⟨nnn, rfl⟩
    | addIV x => exact .inr ⟨x, .inl rfl⟩
    | ldFV x => exact .inr ⟨x, .inr (.inl rfl)⟩
    | ldMV x => exact .inr ⟨x, .inr (.inr (.inl rfl))⟩
    | ldVM x => exact .inr ⟨x, .inr (.inr (.inr rfl))⟩
    | _ => exact absurd (congrArg State.i frame) changed
  · cases i with
    | rnd x kk => exact ⟨x, kk, rfl⟩
    | _ => exact changed.elim (absurd (congrArg State.rand frame) ·) (absurd (congrArg State.randUsed frame) ·)
  · rw [frame]
    exact frame_keeps_host i s t

end Sys2Proof.Machine
end

section
/-! SPEED influences nothing (60_exceptions.md R169). -/

namespace Sys2Proof.Machine

open Host.Outcome (next.inj)

/-- The machine at another SPEED. -/
def State.atSpeed (s : State) (f : HostReal) : State := { s with speed := f }

/-! ## The shared operations -/

theorem State.accessing_atSpeed (s done : State) (base len : Nat) (f : HostReal) :
    (s.atSpeed f).accessing base len (done.atSpeed f) = (s.accessing base len done).atSpeed f := by
  unfold accessing
  split <;> rfl

theorem State.pushing_atSpeed (s done : State) (f : HostReal) :
    (s.atSpeed f).pushing (done.atSpeed f) = (s.pushing done).atSpeed f := by
  rcases s.pushing_cases done with ⟨pushed, room⟩ | ⟨bound, limit, full, faults⟩
  · rw [pushed]
    exact pushing_of_room (s := s.atSpeed f) room _
  · rw [faults]
    exact pushing_of_full (s := s.atSpeed f) limit full _

theorem State.skipIf_atSpeed (s : State) (b : Bool) (f : HostReal) :
    (s.atSpeed f).skipIf b = (s.skipIf b).atSpeed f := by
  rw [skipIf_eq, skipIf_eq]
  rfl

theorem State.logicFlag_atSpeed (s : State) (f : HostReal) : (s.atSpeed f).logicFlag = s.logicFlag.atSpeed f := by
  rw [logicFlag_eq, logicFlag_eq]
  rfl

theorem unmappedWord_atSpeed (op : Word) (s : State) (f : HostReal) :
    unmappedWord op (s.atSpeed f) = (unmappedWord op s).atSpeed f := by
  unfold unmappedWord
  cases policy : s.par.unmappedPolicy <;> simp only [State.atSpeed, policy] <;> rfl

theorem finishTick_atSpeed {t u : State} (f : HostReal) (h : finishTick (.next t) = .next u) :
    finishTick (.next (t.atSpeed f)) = .next (u.atSpeed f) := by
  rw [finishTick_next] at h
  rw [← next.inj h, finishTick_next, apply_ite (State.atSpeed · f)]
  rfl

/-! ## Instructions -/

theorem exec_atSpeed {i : Instr} {s t : State} (f : HostReal) (h : exec i s = .next t) :
    exec i (s.atSpeed f) = .next (t.atSpeed f) := by
  cases i with
  | ret =>
    cases top : s.stack with
    | nil =>
      rw [← next.inj ((exec_ret_of_nil top).symm.trans h)]
      exact exec_ret_of_nil (s := s.atSpeed f) top
    | cons a rest =>
      rw [← next.inj ((exec_ret_of_cons top).symm.trans h)]
      exact exec_ret_of_cons (s := s.atSpeed f) top
  | ldVKey x =>
    cases kw : s.kw with
    | false =>
      rw [← next.inj ((exec_ldVKey_arms x kw).symm.trans h)]
      exact exec_ldVKey_arms (s := s.atSpeed f) x kw
    | true =>
      cases kdl : s.kdl with
      | false =>
        rw [← next.inj ((exec_ldVKey_waits x kw kdl).symm.trans h)]
        exact exec_ldVKey_waits (s := s.atSpeed f) x kw kdl
      | true =>
        cases key : s.key with
        | none =>
          rw [← next.inj ((exec_ldVKey_keyless x kw kdl key).symm.trans h)]
          exact exec_ldVKey_keyless (s := s.atSpeed f) x kw kdl key
        | some k =>
          rw [← next.inj ((exec_ldVKey_completes x kw kdl key).symm.trans h)]
          exact exec_ldVKey_completes (s := s.atSpeed f) x kw kdl key
  | call _ =>
    rw [← next.inj h]
    rw [← State.pushing_atSpeed]
    rfl
  | sei _ _ | snei _ _ | ser _ _ | sner _ _ | skp _ | sknp _ =>
    rw [← next.inj h]
    rw [← State.skipIf_atSpeed]
    rfl
  | orVV _ _ | andVV _ _ | xorVV _ _ =>
    rw [← next.inj h]
    rw [← State.logicFlag_atSpeed]
    rfl
  | drw _ _ _ | ldBV _ | ldMV _ | ldVM _ =>
    rw [← next.inj h]
    rw [← State.accessing_atSpeed]
    rfl
  | _ => rw [← next.inj h]; rfl

/-! ## Events -/

/-- A tick is ready, fetches and decodes as at any other SPEED. -/
theorem cpuTick_atSpeed {s t : State} (f : HostReal) (h : cpuTick s = .next t) :
    cpuTick (s.atSpeed f) = .next (t.atSpeed f) := by
  rcases cpuTick_cases s with ⟨notReady, idle⟩ | ⟨ready, pc, fetchFault⟩ | ⟨ready, pc, rejected, unmapped⟩ |
    ⟨i, ready, pc, decoded, executed⟩
  · rw [← next.inj (idle.symm.trans h)]
    exact cpuTick_of_not_cpuReady (s := s.atSpeed f) notReady
  · rw [← next.inj (fetchFault.symm.trans h)]
    exact cpuTick_of_fetch_out_of_bounds (s := s.atSpeed f) ready pc
  · have tick := cpuTick_of_unmapped (s := s.atSpeed f) ready pc rejected
    have ended := finishTick_atSpeed f (unmapped.symm.trans h)
    rw [← unmappedWord_atSpeed] at ended
    exact tick.trans ended
  · obtain ⟨u, hu, -⟩ := exec_answers i (s.setPc (s.pc + 2#16))
    rw [executed, hu] at h
    have tick := cpuTick_of_decoded (s := s.atSpeed f) ready pc decoded
    exact tick.trans ((congrArg finishTick (exec_atSpeed f hu)).trans (finishTick_atSpeed f h))

theorem State.onLoadRom_atSpeed (s : State) (bs : List Byte) (f : HostReal) :
    (s.atSpeed f).onLoadRom bs = (s.onLoadRom bs).atSpeed f := by
  have reset : (s.atSpeed f).onReset.mem = s.onReset.mem := rfl
  by_cases fits : bs.length ≤ romMax
  · rw [onLoadRom_of_fits _ fits, onLoadRom_of_fits _ fits, reset]
    generalize Memory.writeBytes _ _ _ = loaded
    rfl
  · rw [onLoadRom_of_not_fits _ fits, onLoadRom_of_not_fits _ fits, reset]
    generalize Memory.writeBytes _ _ _ = font
    rfl

/-- No event but `set_speed` reads or writes SPEED: each is a choice by a test that does not read it. -/
theorem handleEvent_atSpeed {e : Event} {s t : State} (f : HostReal) (other : ∀ g, e ≠ .setSpeed g)
    (h : handleEvent e s = .next t) : handleEvent e (s.atSpeed f) = .next (t.atSpeed f) := by
  cases e with
  | cpuTick => exact cpuTick_atSpeed f h
  | setSpeed g => exact absurd rfl (other g)
  | reset | setSound _ => rw [← next.inj h]; rfl
  | loadRom bs => rw [← next.inj h, handleEvent, State.onLoadRom_atSpeed]
  | timerTick =>
    rw [← next.inj h, State.onTimerTick, apply_ite (State.atSpeed · f)]
    rfl
  | keyDown _ =>
    rw [← next.inj h, State.onKeyDown, apply_ite (State.atSpeed · f)]
    rfl
  | keyUp _ =>
    rw [← next.inj h, State.onKeyUp, apply_ite (State.atSpeed · f)]
    rfl
  | start =>
    rw [← next.inj h, State.onStart, apply_ite (State.atSpeed · f)]
    rfl
  | pause =>
    rw [← next.inj h, State.onPause, apply_ite (State.atSpeed · f)]
    rfl
  | resume =>
    rw [← next.inj h, State.onResume, apply_ite (State.atSpeed · f)]
    rfl

/-- Settles O56: the event list is no matter of SPEED, and no other event depends on it. -/
theorem speedHasNoInfluence : Obligations.SpeedHasNoInfluence :=
  fun s _ f other h => handleEvent_atSpeed (s := s.takeEvent) f other h

end Sys2Proof.Machine
end

section
/-! Sprite drawing, in the words of the statements (43_draw.md R125 to R132). -/

namespace Sys2Proof.Machine

/-! ## The sprite's shape and bits (R126, R127) -/

theorem bigSprite_iff (s : State) (n : Nibble) : bigSprite s n = true ↔ s.res = .high ∧ n = 0#4 := by
  simp [bigSprite]

theorem spriteShape_of_big {s : State} {n : Nibble} (big : bigSprite s n = true) :
    spriteShape s.res n = { width := 16, height := 16, bytesPerRow := 2 } :=
  if_pos ((bigSprite_iff s n).mp big)

theorem spriteShape_of_small {s : State} {n : Nibble} (small : bigSprite s n = false) :
    spriteShape s.res n = { width := 8, height := n.toNat, bytesPerRow := 1 } :=
  if_neg (mt (bigSprite_iff s n).mpr (by simp [small]))

theorem spriteShape_width (s : State) (n : Nibble) : (spriteShape s.res n).width = spriteW s n := by
  unfold spriteW
  cases big : bigSprite s n with
  | true => rw [spriteShape_of_big big]; rfl
  | false => rw [spriteShape_of_small big]; rfl

theorem spriteShape_height (s : State) (n : Nibble) : (spriteShape s.res n).height = spriteH s n := by
  unfold spriteH
  cases big : bigSprite s n with
  | true => rw [spriteShape_of_big big]; rfl
  | false => rw [spriteShape_of_small big]; rfl

theorem spriteBytes_eq (s : State) (n : Nibble) : spriteBytes s.res n = spriteLen s n := by
  unfold spriteBytes spriteLen
  cases big : bigSprite s n with
  | true => rw [spriteShape_of_big big]; rfl
  | false => rw [spriteShape_of_small big]; exact Nat.mul_one _

theorem spriteW_le (s : State) (n : Nibble) : spriteW s n ≤ 16 := by
  unfold spriteW
  split <;> omega

theorem spriteH_le (s : State) (n : Nibble) : spriteH s n ≤ 16 := by
  have := n.isLt
  unfold spriteH
  split <;> omega

/-- Column `c` of two bytes side by side, the leftmost pixel first. -/
theorem getLsbD_append_byte (left right : Byte) {c : Nat} (inside : c < 16) :
    (left ++ right : BitVec 16).getLsbD (15 - c) = (if c < 8 then left else right).getLsbD (7 - c % 8) := by
  rw [BitVec.getLsbD_append]
  by_cases h : c < 8
  · simp [h, show ¬15 - c < 8 by omega, show 15 - c - 8 = 7 - c by omega, Nat.mod_eq_of_lt h]
  · simp [h, show 15 - c = 7 - c % 8 by omega, show ¬8 ≤ 7 - c % 8 by omega]

/-- The row the machine assembles holds the statements' bits. -/
theorem spriteRow_bit (s : State) (n : Nibble) (r : Nat) {c : Nat} (inside : c < spriteW s n) :
    (spriteRow s.mem s.i.toNat (spriteShape s.res n) r).getLsbD (15 - c) = spriteBit s n r c := by
  unfold spriteW at inside
  unfold spriteRow spriteBit
  cases big : bigSprite s n with
  | true =>
    have wide : c < 16 := by simpa [big] using inside
    rw [spriteShape_of_big big]
    simp only [if_true, OfNat.ofNat_ne_one, if_false]
    rw [getLsbD_append_byte _ _ wide]
    by_cases h : c < 8
    · rw [if_pos h, Nat.div_eq_of_lt h, Nat.add_zero]
    · rw [if_neg h, show c / 8 = 1 by omega]
  | false =>
    have narrow : c < 8 := by simpa [big] using inside
    rw [spriteShape_of_small big]
    simp only [if_true, Bool.false_eq_true, if_false]
    rw [getLsbD_append_byte _ _ (by omega), if_pos narrow, Nat.mod_eq_of_lt narrow]

/-! ## The job and its landing (R128, R129) -/

theorem spriteJob_fits (s : State) (x y n : Nibble) : (s.spriteJob x y n).Fits where
  x0 := Nat.mod_lt _ s.res.width_pos
  y0 := Nat.mod_lt _ s.res.height_pos
  width := by
    show (spriteShape s.res n).width ≤ s.res.width
    rw [spriteShape_width]
    have := spriteW_le s n
    cases s.res <;> simp only [Resolution.width] <;> omega

theorem spriteJob_width (s : State) (x y n : Nibble) : (s.spriteJob x y n).width = spriteW s n := spriteShape_width s n

theorem spriteJob_col (s : State) (x y n : Nibble) (c : Nat) : (s.spriteJob x y n).col c = landX s x c := rfl

theorem spriteJob_rowAt (s : State) (x y n : Nibble) (r : Nat) : (s.spriteJob x y n).rowAt r = landY s y r := rfl

theorem spriteH_le_height (s : State) (n : Nibble) : spriteH s n ≤ s.res.height := by
  have := spriteH_le s n
  cases s.res <;> simp only [Resolution.height] <;> omega

/-! ## What is drawn -/

/-- The blit of DRW is the closed form of Laws/Draw.lean at this job. -/
theorem drawn_eq (s : State) (x y n : Nibble) :
    s.drawn x y n =
      blit (s.spriteJob x y n) (spriteRow s.mem s.i.toNat (spriteShape s.res n)) (spriteH s n) s.phys := by
  rw [State.drawn, spriteShape_height]

/-- A row of the machine's sprite collides exactly when the statements' row does. -/
theorem rowHit_eq_rowCollides (s : State) (x y n : Nibble) (r : Nat) :
    rowHit (s.spriteJob x y n) (spriteRow s.mem s.i.toNat (spriteShape s.res n)) s.phys r = rowCollides s x y n r := by
  rw [rowHit, spriteJob_rowAt, spriteJob_width, rowCollides, Bool.eq_iff_iff]
  cases lands : landY s y r with
  | none => simp [bitHits, lands]
  | some py =>
    simp only [Option.any_some, List.any_eq_true, List.mem_range]
    refine exists_congr fun c => and_congr_right fun inside => ?_
    rw [pixelHit, bitHits, spriteRow_bit s n r inside, spriteJob_col, lands]
    cases landX s x c <;> rfl

/-- A cell after the blit: lit pixels are flipped from what they read before. -/
theorem pixel_drawn (s : State) (x y n : Nibble) (r c : Nat) :
    (Lights s x y n (s.res.logical c) (s.res.logical r) →
      Grid.pixel (s.drawn x y n).grid r c = !fbGet s.phys (s.res.logical c) (s.res.logical r) s.res) ∧
    (¬Lights s x y n (s.res.logical c) (s.res.logical r) →
      Grid.pixel (s.drawn x y n).grid r c = Grid.pixel s.phys r c) := by
  have cells := (blit_range _ (spriteJob_fits s x y n) (spriteRow s.mem s.i.toNat (spriteShape s.res n)) s.phys
    (spriteH s n) (spriteH_le_height s n)).1 r c
  rw [← drawn_eq, spriteJob_width] at cells
  have lights : (∃ a, a < spriteH s n ∧ (s.spriteJob x y n).rowAt a = some (s.res.logical r) ∧
      ∃ b, b < spriteW s n ∧ (spriteRow s.mem s.i.toNat (spriteShape s.res n) a).getLsbD (15 - b) = true ∧
        (s.spriteJob x y n).col b = some (s.res.logical c)) ↔
      Lights s x y n (s.res.logical c) (s.res.logical r) := by
    constructor
    · rintro ⟨a, ha, row, b, hb, bit, col⟩
      exact ⟨a, b, ha, hb, (spriteRow_bit s n a hb).symm.trans bit, col, row⟩
    · rintro ⟨a, b, ha, hb, bit, col, row⟩
      exact ⟨a, ha, row, b, hb, (spriteRow_bit s n a hb).trans bit, col⟩
  exact ⟨fun lit => cells.trans (if_pos (lights.mpr lit)), fun dark => cells.trans (if_neg (mt lights.mp dark))⟩

/-- What the two loops carry besides the grid, in the statements' words. -/
theorem drawn_flags (s : State) (x y n : Nibble) :
    (s.drawn x y n).collide = anyCollision s x y n ∧ (s.drawn x y n).clipped = anyRowClipped s y n ∧
      (s.drawn x y n).rowsHit = countRowsHit s x y n := by
  have rows : rowHit (s.spriteJob x y n) (spriteRow s.mem s.i.toNat (spriteShape s.res n)) s.phys = rowCollides s x y n :=
    funext (rowHit_eq_rowCollides s x y n)
  obtain ⟨-, collide, clipped, hits⟩ := blit_range _ (spriteJob_fits s x y n)
    (spriteRow s.mem s.i.toNat (spriteShape s.res n)) s.phys (spriteH s n) (spriteH_le_height s n)
  rw [← drawn_eq, rows] at collide
  rw [← drawn_eq] at clipped
  rw [← drawn_eq, rows] at hits
  exact ⟨collide, clipped, hits⟩

/-! ## The instruction -/

/-- The state DRW leaves when every sprite byte exists. -/
def State.afterDrw (s : State) (x y n : Nibble) : State :=
  ((s.setPhys (s.drawn x y n).grid).setVF
    (drawFlag s.res s.par.hiresVf (s.drawn x y n).collide (s.drawn x y n).clipped (s.drawn x y n).rowsHit)).setInt true

theorem exec_drw (x y n : Nibble) (s : State) :
    exec (.drw x y n) s = .next (s.accessing s.i.toNat (spriteLen s n) (s.afterDrw x y n)) := by
  rw [← spriteBytes_eq]
  rfl

theorem exec_drw_of_range {s : State} {n : Nibble} (x y : Nibble)
    (range : s.i.toNat + spriteLen s n ≤ 0x1000 ∨ spriteLen s n = 0) :
    exec (.drw x y n) s = .next (s.afterDrw x y n) := by
  rw [exec_drw]
  rcases range with inside | empty
  · rw [s.accessing_of_le inside]
  · rw [empty, s.accessing_empty]

/-- Settles O17: the frame of the three fields DRW writes, and each cell by the closed form of its loops. -/
theorem drwXorsTheSprite : Obligations.DrwXorsTheSprite := by
  intro s x y n range
  refine ⟨_, exec_drw_of_range x y range, rfl, fun r other => ?_, fun r c _ _ => pixel_drawn s x y n r c⟩
  rw [State.afterDrw, State.reg_setInt, State.reg_setVF_other _ _ other, State.reg_setPhys]

/-- VF as R131 says. -/
theorem drawFlag_eq (res : Resolution) (rule : HiresVfRule) (collide clipped : Bool) (rows : Nat) :
    drawFlag res rule collide clipped rows =
      match res with
      | .low => if collide then 1#8 else 0#8
      | .high =>
        match rule with
        | .collideOrBottomClip => if collide || clipped then 1#8 else 0#8
        | .collideOnly => if collide then 1#8 else 0#8
        | .rowCount => BitVec.ofNat 8 rows := by
  cases res with
  | low => rfl
  | high => cases rule <;> rfl

/-- Settles O18: VF is written last, from what the loops carry. -/
theorem drwFlag : Obligations.DrwFlag := by
  intro s x y n range
  obtain ⟨collide, clipped, rows⟩ := drawn_flags s x y n
  refine ⟨_, exec_drw_of_range x y range, ?_⟩
  rw [State.afterDrw, collide, clipped, rows, drawFlag_eq]
  exact State.reg_setV_same _ _ _

/-- Settles O19: the sprite's bytes are checked before any pixel is written. -/
theorem drwFaultsPrecisely : Obligations.DrwFaultsPrecisely := by
  intro s x y n nonempty out
  rw [exec_drw, s.accessing_faulted nonempty out]

end Sys2Proof.Machine
end
